-- ==== Sys2Proof/Word.lean ====
section
/-! DEFINITION. The byte, the byte string and the machine words of the spec (00_scope.md R8). -/

namespace Sys2Proof

/-- One byte of the stream, of the frame buffer or of a text. -/
abbrev Byte := BitVec 8

/-- A byte string: a payload, a template or a text (00_scope.md R8). -/
abbrev Bytes := List Byte

/-- A 4-byte parameter word (30_encoding.md R61). -/
abbrev Word := BitVec 32

/-- A 48-bit timestamp in microseconds (10_state.md R28). -/
abbrev Timestamp := BitVec 48

end Sys2Proof
end

