-- ==== Sys2Proof/Config.lean ====
section
/-! DEFINITION. The configuration of an instance (10_state.md R20, 00_scope.md R7): the plain data one
instance is constructed with, and, as opaque constants, every OPEN text and function the spec leaves
without a value. -/

namespace Sys2Proof

/-- `VARIANT` (00_scope.md R2, 10_state.md R20). -/
inductive Variant where
  | base
  | extended
deriving DecidableEq, Repr

/-- `NIBBLE_ORDER` (30_encoding.md R62): which nibble of a nibble byte belongs to the even slot. -/
inductive NibbleOrder where
  | lowFirst
  | highFirst
deriving DecidableEq, Repr

/-- A non-empty byte string: the shape `TS_MARKER` has (00_scope.md R7). -/
structure Marker where
  first : Byte
  rest : Bytes
deriving DecidableEq, Repr

/-- The bytes of a marker. -/
abbrev Marker.bytes (m : Marker) : Bytes := m.first :: m.rest

/-- `FRAME_PREFIX` (43_base_render.md R150): the default the spec gives, or another function. -/
inductive PrefixForm where
  /-- `"[" ++ TsText(ts) ++ "/" ++ CHANNEL_TAG(channel) ++ "]"` -/
  | bracketed
  /-- any other function of timestamp and channel (`Config.framePrefix`) -/
  | other
deriving DecidableEq, Repr

/-- `ERRCODE2_LAYOUT` (00_scope.md R7): where sub-format 2 of an error-code word holds its sub-type,
subcode, code16 and raw fields, and which sub-type means the pair.  Widths are those of 30_encoding.md
R66. -/
structure ErrCode2Layout where
  subtypeLo : Nat
  subcodeLo : Nat
  code16Lo : Nat
  rawLo : Nat
  pairSubtype : BitVec 2
deriving DecidableEq, Repr

/-- The layout 30_encoding.md R66 decides: `subtype = w[29:28]`, `subcode = w[27:16]`,
`code16 = w[15:0]`, `raw = w[27:0]`, the pair at `subtype = 0`. -/
abbrev ErrCode2Layout.decided : ErrCode2Layout :=
  { subtypeLo := 28, subcodeLo := 16, code16Lo := 0, rawLo := 0, pairSubtype := 0 }

/-- The configuration of one instance, as plain data (10_state.md R20).  The block never writes it. -/
structure Cfg where
  variant : Variant
  stringTable : List Bytes
  fnTable : List Bytes
  /-- the struct type ids that have a registered handler (45_host_interface.md R185) -/
  registry : List (BitVec 16)
  nibbleOrder : NibbleOrder
  tsMarker : Marker
  prefixForm : PrefixForm
  errCode2 : ErrCode2Layout
deriving DecidableEq, Repr

/-- DESIGN CHOICE (log 1): the configuration the reset state is constructed with.  The spec says only
"as constructed" (10_state.md R35); the bindings are those of 95_test_vectors.md where it names one. -/
def Cfg.default : Cfg :=
  { variant := .base, stringTable := [], fnTable := [], registry := [], nibbleOrder := .lowFirst,
    tsMarker := { first := 0x40#8, rest := [0x54#8] }, prefixForm := .bracketed,
    errCode2 := .decided }

/-- The unpacked error code `e` of a code-5 parameter (30_encoding.md R66, 42_base_extractor.md R115). -/
inductive ErrCode where
  | none
  | fileLine (file line : BitVec 11) (code : Byte)
  | fileInst (file inst : BitVec 11) (code : Byte)
  | pair (subcode : BitVec 12) (code16 : BitVec 16)
  | reserved (subtype : BitVec 2) (raw : BitVec 28)
  | legacy (v : BitVec 30)
deriving DecidableEq, Repr

namespace Config

/-- DESIGN CHOICE (log 4): what a byte of `BUF` that nothing has written reads as.  10_state.md R24 leaves
it unspecified. -/
opaque unwrittenByte : Nat → Byte

/-- DESIGN CHOICE (log 10): the text the registered handler of a struct type gives
(45_host_interface.md R185; handler bodies are out of scope, 00_scope.md R5). -/
opaque structHandler : BitVec 16 → Bytes → Bytes

/-- DESIGN CHOICE (log 6): `CHANNEL_TAG` for every channel but 0x01 (43_base_render.md R150). -/
opaque channelTag : Byte → Bytes

/-- DESIGN CHOICE (log 6): a `FRAME_PREFIX` other than the default (43_base_render.md R150).  Its text may be
any byte string, the empty one too, as 00_scope.md R7 allows; 45_host_interface.md R191 speaks of a Base text
as one that is never empty, and the model does not rest on that. -/
opaque framePrefix : Timestamp → Byte → Bytes

/-- DESIGN CHOICE (log 5): `TXT_MISSING_END` (60_exceptions.md R203). -/
opaque txtMissingEnd : Byte → Bytes

/-- DESIGN CHOICE (log 5): `TXT_BAD_PTR` (42_base_extractor.md R125). -/
opaque txtBadPtr : Bytes

/-- DESIGN CHOICE (log 5): `TXT_BAD_SIZE` (42_base_extractor.md R125). -/
opaque txtBadSize : Bytes

/-- DESIGN CHOICE (log 5): `TXT_BAD_INDEX` (44_extended_extractor.md R160). -/
opaque txtBadIndex : Bytes

/-- DESIGN CHOICE (log 5): `TXT_BAD_FN` (44_extended_extractor.md R175). -/
opaque txtBadFn : Bytes

/-- DESIGN CHOICE (log 5): `ERRCODE_TEXT` of the file/line, file/instance, pair and reserved forms
(43_base_render.md R145). -/
opaque errCodeText : ErrCode → Bytes

/-- DESIGN CHOICE (log 7): `CFormat` of a conversion specification that C leaves undefined
(93_implementation_defined.md), given the specification and the value. -/
opaque cformatUndefined : Bytes → Int → Bytes

end Config

end Sys2Proof
end

