-- ==== Sys2Proof/Machine/Bytes.lean ====
section
/-! DEFINITION. Byte strings: little-endian numbers, decimal and hexadecimal text, the header CRC, and the
constants derived from the variant (00_scope.md R6, R7, R9; 30_encoding.md R59). -/

namespace Sys2Proof

/-- The ASCII bytes of a list of characters. -/
def ascii (cs : List Char) : Bytes := cs.map fun c => BitVec.ofNat 8 c.toNat

/-- `START_MAGIC` (10_state.md R21). -/
def Cfg.startMagic (c : Cfg) : Byte :=
  match c.variant with
  | .base => 0xC0#8
  | .extended => 0xC2#8

/-- `HEADER_SIZE` (00_scope.md R6). -/
abbrev headerSize : Nat := 13

/-- `MAGIC_END` (00_scope.md R6). -/
def magicEnd : Byte := 0xC1#8

/-- `FRAME_MAX` (00_scope.md R7). -/
def Cfg.frameMax (c : Cfg) : Nat :=
  match c.variant with
  | .base => 13 + 65535 + 1
  | .extended => 13 + 255 + 1

/-- The unsigned little-endian value of a byte string, `sum over k of s[k] << 8k` (00_scope.md R9,
20_memory.md R40). -/
def leVal : Bytes → Nat
  | [] => 0
  | b :: bs => b.toNat + 256 * leVal bs

/-- The `n` little-endian bytes of a value. -/
def leBytes : Nat → Nat → Bytes
  | 0, _ => []
  | n + 1, v => BitVec.ofNat 8 v :: leBytes n (v / 256)

/-- The ASCII digit of a value below 16; letters in upper or lower case. -/
def digitByte (upper : Bool) (d : Nat) : Byte :=
  if d < 10 then BitVec.ofNat 8 (48 + d)
  else if upper then BitVec.ofNat 8 (55 + d) else BitVec.ofNat 8 (87 + d)

/-- The digits of `v` in a base, at most `fuel` of them, no padding. -/
def digitsAux (base : Nat) (upper : Bool) : Nat → Nat → Bytes
  | 0, _ => []
  | fuel + 1, v =>
    if v < base then [digitByte upper v]
    else digitsAux base upper fuel (v / base) ++ [digitByte upper (v % base)]

/-- The unpadded digits of `v` in a base. -/
def digits (base : Nat) (upper : Bool) (v : Nat) : Bytes := digitsAux base upper (v + 1) v

/-- Exactly `n` digits of `v` in a base, zero-padded (`Dec6`, `Dec_n`, `Hex_w`). -/
def padDigits (base : Nat) (upper : Bool) : Nat → Nat → Bytes
  | 0, _ => []
  | n + 1, v => padDigits base upper n (v / base) ++ [digitByte upper (v % base)]

/-- `Dec(n)` of a natural number (00_scope.md R9). -/
def decNat (n : Nat) : Bytes := digits 10 false n

/-- `Dec(n)`: decimal text with a leading `-` if negative, no padding (00_scope.md R9). -/
def dec (i : Int) : Bytes :=
  if i < 0 then ascii ['-'] ++ decNat i.natAbs else decNat i.natAbs

/-- `Hex_w(n)`: exactly `w` lowercase digits, zero-padded (00_scope.md R9). -/
def hexW (w n : Nat) : Bytes := padDigits 16 false w n

/-- Byte pairs in hex, separated by single spaces (43_base_render.md R142). -/
def hexPairs : Bytes → Bytes
  | [] => []
  | [b] => hexW 2 b.toNat
  | b :: bs => hexW 2 b.toNat ++ ascii [' '] ++ hexPairs bs

/-- The first `n` little-endian words of a byte string as 8 hex digits each, separated by single spaces
(43_base_render.md R142). -/
def hexWords : Nat → Bytes → Bytes
  | 0, _ => []
  | 1, d => hexW 8 (leVal (d.take 4))
  | n + 1, d => hexW 8 (leVal (d.take 4)) ++ ascii [' '] ++ hexWords n (d.drop 4)

/-- One of the 8 shifts of the CRC (30_encoding.md R59). -/
def crcShift (acc : BitVec 16) : BitVec 16 :=
  (if acc.msb then acc ^^^ 0x8380#16 else acc) <<< 1

/-- The CRC accumulator after one byte (30_encoding.md R59). -/
def crcByte (acc : BitVec 16) (d : Byte) : BitVec 16 :=
  Nat.repeat crcShift 8 (acc ^^^ (d.zeroExtend 16 <<< 8))

/-- `CRC8(s)` (30_encoding.md R59). -/
def crc8 (s : Bytes) : Byte := ((s.foldl crcByte 0#16) >>> 8).truncate 8

/-- `TsText(v)`: seconds, a point, six digits of microseconds (43_base_render.md R140). -/
def tsText (v : Nat) : Bytes :=
  decNat (v / 1000000) ++ ascii ['.'] ++ padDigits 10 false 6 (v % 1000000)

end Sys2Proof
end

