-- ==== Sys2Proof/Syntax.lean ====
section
/-! DEFINITION. The instructions of the block, one constructor per row of spec/opcode_table.json
(00_scope.md R11), their operands, and the words that encode them (30_encoding.md). -/

namespace Sys2Proof

/-- A frame of the Base wire format with every field the table's BASE_FRAME row names (30_encoding.md R57,
R60).  The CRC byte is the one sent: it may be wrong. -/
structure BaseFrame where
  ctl : Byte
  channel : Byte
  litLen : Byte
  ts : Timestamp
  payLen : BitVec 16
  crc : Byte
  payload : Bytes
  trailer : Option Byte
deriving DecidableEq, Repr

/-- A frame of the Extended wire format (30_encoding.md R58, R60). -/
structure ExtFrame where
  ctl : Byte
  channel : Byte
  strIndex : BitVec 16
  ts : Timestamp
  payLen : Byte
  crc : Byte
  payload : Bytes
  trailer : Option Byte
deriving DecidableEq, Repr

/-- One character of FLAGS (30_encoding.md R68). -/
inductive Flag where
  | minus
  | plus
  | space
  | hash
  | zero
deriving DecidableEq, Repr

/-- A decimal digit of WIDTH or PREC. -/
abbrev Digit := Fin 10

/-- LEN (30_encoding.md R68): absent, `ll` or `z`. -/
inductive Len where
  | absent
  | ll
  | z
deriving DecidableEq, Repr

/-- CONV (30_encoding.md R68): `X`, `c`, `d`, `u` or `x`. -/
inductive Conv where
  | hexUpper
  | char
  | dec
  | unsigned
  | hexLower
deriving DecidableEq, Repr

/-- FLAGS WIDTH PREC? LEN? of an integer conversion (30_encoding.md R68). -/
structure IntSpec where
  flags : List Flag
  width : List Digit
  prec : Option (List Digit)
  len : Len
deriving DecidableEq, Repr

/-- FLAGS WIDTH of a string conversion (30_encoding.md R68). -/
structure StrSpec where
  flags : List Flag
  width : List Digit
deriving DecidableEq, Repr

/-- The letter after `p` in a PTR token (30_encoding.md R68). -/
inductive PtrKind where
  | h
  | P
  | T
deriving DecidableEq, Repr

/-- A template token, by the first grammar of 30_encoding.md R68 that matches at its start. -/
inductive Token where
  | escape (rest : Bytes)
  | int (spec : IntSpec) (conv : Conv) (rest : Bytes)
  | str (spec : StrSpec) (rest : Bytes)
  | ptr (kind : PtrKind) (rest : Bytes)
  | unprocessed (token : Bytes)
deriving DecidableEq, Repr

/-- A byte class of the Base literal (30_encoding.md R67): `$`, `%` with the byte it escapes (none when the
`%` is the last byte), or any other byte. -/
inductive LitOp where
  | subst
  | escape (c : Option Byte)
  | byte (b : Byte)
deriving DecidableEq, Repr

/-- The instructions: one constructor per row of spec/opcode_table.json, in the table's order. -/
inductive Instr where
  -- HOSTOP: the operation words of 30_encoding.md R55; `ignored` is op[7:0] of a word that ignores it
  | feed (b : Byte)
  | takeDecoded (ignored : Byte)
  | takeErrors (ignored : Byte)
  | reset (ignored : Byte)
  -- IDLE_BYTE and FRAME_BYTE: the classes of a fed byte (40_frame_assembler.md R71, R72)
  | idleStartMagic
  | idleRaw (b : Byte)
  | frameByte (b : Byte)
  -- FRAME: a whole frame (30_encoding.md R57, R58)
  | baseFrame (f : BaseFrame)
  | extFrame (f : ExtFrame)
  -- CTL: the control byte (30_encoding.md R56)
  | ctl (nparam : BitVec 3) (dropped : Bool) (seq : BitVec 4)
  -- FMT4: the format codes 0 to 15 (30_encoding.md R63)
  | fmtDone
  | fmtS32
  | fmtU32
  | fmtHex32
  | fmtChar
  | fmtErrcode
  | fmtString
  | fmtExt64
  | fmtBad8
  | fmtBad9
  | fmtBad10
  | fmtBad11
  | fmtStruct
  | fmtStrbuf
  | fmtBytes
  | fmtWords
  -- FMT64: a code 7 with the code of the next slot (30_encoding.md R64), or in the last slot
  | fmt64S64
  | fmt64U64
  | fmt64Hex64
  | fmt64Time
  | fmt64Invalid (c : BitVec 4)
  | fmtExt64Last
  -- ERRW: the error-code word's sub-formats (30_encoding.md R66)
  | errNone
  | errFileLine (file line : BitVec 11) (code : Byte)
  | errFileInst (file inst : BitVec 11) (code : Byte)
  | errPair (subcode : BitVec 12) (code16 : BitVec 16)
  | errReserved (subtype : BitVec 2) (raw : BitVec 28)
  | errLegacy (v : BitVec 30)
  -- BLIT: the literal's byte classes (30_encoding.md R67)
  | litSubst
  | litEscape (c : Option Byte)
  | litByte (b : Byte)
  -- XSPEC: the template's conversions (30_encoding.md R68) and the timestamp marker
  | xEscape (rest : Bytes)
  | xIntFixed (spec : IntSpec) (conv : Conv) (rest : Bytes)
  | xIntD (spec : IntSpec) (rest : Bytes)
  | xIntU (spec : IntSpec) (rest : Bytes)
  | xIntX (spec : IntSpec) (rest : Bytes)
  | xIntXU (spec : IntSpec) (rest : Bytes)
  | xIntC (spec : IntSpec) (rest : Bytes)
  | xLenZ (spec : IntSpec) (conv : Conv) (rest : Bytes)
  | xStr (spec : StrSpec) (rest : Bytes)
  | xStrFn (spec : StrSpec) (rest : Bytes)
  | xPtrP (rest : Bytes)
  | xPtrT (rest : Bytes)
  | xPtrH (rest : Bytes)
  | xUnprocessed (token : Bytes)
  | xTsMarker
deriving DecidableEq, Repr

/-- A word presented to the block, by the table's format, before decoding.  Only `hostop` is a word a host
can issue on the hardware (30_encoding.md R55) and `frame` its FEED* form (45_host_interface.md R194); the
other formats are the words FEED itself fetches from the frame and the template (log 3). -/
inductive IssueWord where
  | hostop (op : BitVec 10)
  | idleByte (b : Byte)
  | frameByte (b : Byte)
  | frame (bytes : Bytes)
  | ctl (b : Byte)
  | fmt4 (code : BitVec 4)
  /-- the nibble of slot `i` and, unless it is the last slot, the nibble of slot `i+1` -/
  | fmt64 (code : BitVec 4) (next : Option (BitVec 4))
  | errw (w : Word)
  | blit (bytes : Bytes)
  /-- a template token, and the parameter byte at `pc` (none at the end of the payload) -/
  | xspec (token : Bytes) (peek : Option Byte)
  /-- the bytes at the start of a template -/
  | xmarker (bytes : Bytes)
  /-- an attempt from outside to change the construction inputs (70_reset_and_hazards.md R238) -/
  | reconfigure (c : Cfg)
deriving DecidableEq, Repr

/-- Why a word is no encoding of the table. -/
inductive DecodeReject where
  /-- a FRAME word whose first byte is neither 0xC0 nor 0xC2 (30_encoding.md R57, R58) -/
  | frameStartMagic
  /-- a FRAME word shorter than its 13-byte header -/
  | frameShort
  /-- a FRAME word whose length is not the one its header declares (30_encoding.md R60) -/
  | frameLength
  /-- an FMT64 word whose first nibble is not 7 (30_encoding.md R64) -/
  | notExt64Prefix
  /-- a BLIT word that is empty, or has a second byte after anything but `%` (30_encoding.md R67) -/
  | literalWord
  /-- a marker word that is not `TS_MARKER` (44_extended_extractor.md R164) -/
  | notTheMarker
  /-- the configuration is fixed from construction on (70_reset_and_hazards.md R238) -/
  | configurationFixed
deriving DecidableEq, Repr

end Sys2Proof
end

