-- ==== Sys2Proof/Machine/Template.lean ====
section
/-! DEFINITION. The two text syntaxes: the Base literal (30_encoding.md R67) and the Extended template, its
tokenizer and its token grammar (30_encoding.md R68, 44_extended_extractor.md R163). -/

namespace Sys2Proof

/-- `%` -/
def percent : Byte := 0x25#8

/-- `$` -/
def dollar : Byte := 0x24#8

/-- `.` -/
def point : Byte := 0x2E#8

/-- An ASCII decimal digit. -/
def isDigit (b : Byte) : Bool := 48 ≤ b.toNat && b.toNat ≤ 57

/-- The character of a flag (D31). -/
def Flag.byte : Flag → Byte
  | .minus => 0x2D#8
  | .plus => 0x2B#8
  | .space => 0x20#8
  | .hash => 0x23#8
  | .zero => 0x30#8

/-- The flag a character is (D31). -/
def flagOf (b : Byte) : Option Flag :=
  if b = 0x2D#8 then some .minus
  else if b = 0x2B#8 then some .plus
  else if b = 0x20#8 then some .space
  else if b = 0x23#8 then some .hash
  else if b = 0x30#8 then some .zero
  else none

/-- The character of a digit. -/
def Digit.byte (d : Digit) : Byte := BitVec.ofNat 8 (48 + d.val)

/-- The digit a character is. -/
def digitOf (b : Byte) : Option Digit :=
  if isDigit b then some (Fin.ofNat 10 (b.toNat - 48)) else none

/-- The number a digit run stands for. -/
def digitsValue (ds : List Digit) : Nat := ds.foldl (fun v d => 10 * v + d.val) 0

/-- The character of a conversion. -/
def Conv.byte : Conv → Byte
  | .hexUpper => 0x58#8
  | .char => 0x63#8
  | .dec => 0x64#8
  | .unsigned => 0x75#8
  | .hexLower => 0x78#8

/-- The conversion a character is (CONV of 30_encoding.md R68). -/
def convOf (b : Byte) : Option Conv :=
  if b = 0x58#8 then some .hexUpper
  else if b = 0x63#8 then some .char
  else if b = 0x64#8 then some .dec
  else if b = 0x75#8 then some .unsigned
  else if b = 0x78#8 then some .hexLower
  else none

/-- The characters of LEN. -/
def Len.bytes : Len → Bytes
  | .absent => []
  | .ll => [0x6C#8, 0x6C#8]
  | .z => [0x7A#8]

/-- The character after `p` in a PTR token. -/
def PtrKind.byte : PtrKind → Byte
  | .h => 0x68#8
  | .P => 0x50#8
  | .T => 0x54#8

/-- The PTR kind a character is. -/
def ptrKindOf (b : Byte) : Option PtrKind :=
  if b = 0x68#8 then some .h
  else if b = 0x50#8 then some .P
  else if b = 0x54#8 then some .T
  else none

/-- FLAGS, matched greedily, and what follows. -/
def spanFlags : Bytes → List Flag × Bytes
  | [] => ([], [])
  | b :: bs =>
    match flagOf b with
    | some f => (f :: (spanFlags bs).1, (spanFlags bs).2)
    | none => ([], b :: bs)

/-- A digit run, matched greedily, and what follows. -/
def spanDigits : Bytes → List Digit × Bytes
  | [] => ([], [])
  | b :: bs =>
    match digitOf b with
    | some d => (d :: (spanDigits bs).1, (spanDigits bs).2)
    | none => ([], b :: bs)

/-- `PREC?`: a point and a digit run, which may be empty (30_encoding.md R68). -/
def spanPrec : Bytes → Option (List Digit) × Bytes
  | [] => (none, [])
  | b :: bs => if b = point then (some (spanDigits bs).1, (spanDigits bs).2) else (none, b :: bs)

/-- `LEN?`: `ll` or `z` (30_encoding.md R68). -/
def spanLen : Bytes → Len × Bytes
  | [] => (.absent, [])
  | [b] => if b = 0x7A#8 then (.z, []) else (.absent, [b])
  | b :: b' :: bs =>
    if b = 0x7A#8 then (.z, b' :: bs)
    else if b = 0x6C#8 ∧ b' = 0x6C#8 then (.ll, bs)
    else (.absent, b :: b' :: bs)

/-- The INT grammar at the start of a token (30_encoding.md R68). -/
def parseInt (t : Bytes) : Option Token :=
  let (flags, r1) := spanFlags t
  let (width, r2) := spanDigits r1
  let (prec, r3) := spanPrec r2
  let (len, r4) := spanLen r3
  match r4 with
  | [] => none
  | b :: rest => (convOf b).map fun conv => .int ⟨flags, width, prec, len⟩ conv rest

/-- The STR grammar at the start of a token (30_encoding.md R68). -/
def parseStr (t : Bytes) : Option Token :=
  let (flags, r1) := spanFlags t
  let (width, r2) := spanDigits r1
  match r2 with
  | [] => none
  | b :: rest => if b = 0x73#8 then some (.str ⟨flags, width⟩ rest) else none

/-- The PTR grammar at the start of a token (30_encoding.md R68). -/
def parsePtr : Bytes → Option Token
  | b :: k :: rest => if b = 0x70#8 then (ptrKindOf k).map fun kind => .ptr kind rest else none
  | _ => none

/-- The ESCAPE grammar at the start of a token (30_encoding.md R68). -/
def parseEscape : Bytes → Option Token
  | b :: rest => if b = percent then some (.escape rest) else none
  | [] => none

/-- A token by the first grammar that matches: ESCAPE, INT, STR, PTR, else unprocessed
(30_encoding.md R68, 44_extended_extractor.md R161). -/
def parseToken (t : Bytes) : Token :=
  (((parseEscape t).or (parseInt t)).or ((parseStr t).or (parsePtr t))).getD (.unprocessed t)

/-- The characters of FLAGS WIDTH. -/
def StrSpec.bytes (s : StrSpec) : Bytes := s.flags.map Flag.byte ++ s.width.map Digit.byte

/-- The characters of PREC?. -/
def precBytes : Option (List Digit) → Bytes
  | none => []
  | some ds => point :: ds.map Digit.byte

/-- The characters of FLAGS WIDTH PREC? (the part `CFormat` is given, 44_extended_extractor.md R166). -/
def IntSpec.formatBytes (s : IntSpec) : Bytes :=
  s.flags.map Flag.byte ++ s.width.map Digit.byte ++ precBytes s.prec

/-- The characters of a token. -/
def Token.bytes : Token → Bytes
  | .escape rest => percent :: rest
  | .int s conv rest => s.formatBytes ++ s.len.bytes ++ conv.byte :: rest
  | .str s rest => s.bytes ++ 0x73#8 :: rest
  | .ptr k rest => 0x70#8 :: k.byte :: rest
  | .unprocessed t => t

/-- The search for `digit+ "." digit+` in a token: `prev` says whether the byte before is a digit; the
answer is the value of the second digit run of the leftmost match (44_extended_extractor.md R167;
DEDUCED: leftmost, log 8). -/
def fixedSearch : Bool → Bytes → Option Nat
  | _, [] => none
  | prev, b :: bs =>
    if b = point ∧ prev ∧ (spanDigits bs).1 ≠ [] then some (digitsValue (spanDigits bs).1)
    else fixedSearch (isDigit b) bs

/-- The fixed-point sub-match of an integer token, if it has one: the number of fraction digits
(44_extended_extractor.md R167). -/
def fixedDigits (s : IntSpec) (conv : Conv) (rest : Bytes) : Option Nat :=
  fixedSearch false (Token.int s conv rest).bytes

/-- The tokens after a splitting `%`: `first` says that the next byte is the one right after it, which
joins the token even when it is `%`; `cur` is the token so far (44_extended_extractor.md R163). -/
def tokensFrom : Bool → Bytes → Bytes → List Bytes
  | _, cur, [] => [cur]
  | first, cur, b :: bs =>
    if b = percent ∧ ¬first then cur :: tokensFrom true [] bs
    else tokensFrom false (cur ++ [b]) bs

/-- `Tokenize(T)`: the text before the first `%`, and the tokens (44_extended_extractor.md R163). -/
def tokenize (t : Bytes) : Bytes × List Bytes :=
  (t.takeWhile (· ≠ percent),
    match t.dropWhile (· ≠ percent) with
    | [] => []
    | _ :: rest => tokensFrom true [] rest)

/-- The literal as its byte classes, scanned left to right (30_encoding.md R67, 43_base_render.md R146). -/
def litOps : Bytes → List LitOp
  | [] => []
  | [b] => if b = dollar then [.subst] else if b = percent then [.escape none] else [.byte b]
  | b :: c :: bs =>
    if b = dollar then .subst :: litOps (c :: bs)
    else if b = percent then .escape (some c) :: litOps bs
    else .byte b :: litOps (c :: bs)

/-- The bytes a byte class of the literal covers. -/
def LitOp.bytes : LitOp → Bytes
  | .subst => [dollar]
  | .escape none => [percent]
  | .escape (some c) => [percent, c]
  | .byte b => [b]

end Sys2Proof
end

