-- ==== Sys2Proof/WellFormed.lean ====
section
/-! DEFINITION. Which instructions an encoding stands for: the operand values that the word of the
instruction itself can carry under a configuration (30_encoding.md). -/

namespace Sys2Proof

/-- The payload and trailer a Base header declares (30_encoding.md R60). -/
abbrev BaseFrame.wf (f : BaseFrame) : Bool :=
  f.payload.length == f.payLen.toNat && (f.trailer.isSome == (f.payLen != 0))

/-- The payload and trailer an Extended header declares (30_encoding.md R60). -/
abbrev ExtFrame.wf (f : ExtFrame) : Bool :=
  f.payload.length == f.payLen.toNat && (f.trailer.isSome == (f.payLen != 0))

/-- WIDTH does not begin with `0`: FLAGS is matched greedily and takes it (30_encoding.md R68). -/
abbrev widthOk (w : List Digit) : Bool := w.head? != some 0

/-- Whether an instruction is what some word of the table stands for, under a configuration. -/
def Instr.wf (c : Cfg) : Instr → Bool
  | .feed _ => true
  | .takeDecoded _ => true
  | .takeErrors _ => true
  | .reset _ => true
  | .idleStartMagic => true
  | .idleRaw b => b != c.startMagic
  | .frameByte _ => true
  | .baseFrame f => f.wf
  | .extFrame f => f.wf
  | .ctl _ _ _ => true
  | .fmtDone => true
  | .fmtS32 => true
  | .fmtU32 => true
  | .fmtHex32 => true
  | .fmtChar => true
  | .fmtErrcode => true
  | .fmtString => true
  | .fmtExt64 => true
  | .fmtBad8 => true
  | .fmtBad9 => true
  | .fmtBad10 => true
  | .fmtBad11 => true
  | .fmtStruct => true
  | .fmtStrbuf => true
  | .fmtBytes => true
  | .fmtWords => true
  | .fmt64S64 => true
  | .fmt64U64 => true
  | .fmt64Hex64 => true
  | .fmt64Time => true
  | .fmt64Invalid n => n != 1 && n != 2 && n != 3 && n != 4
  | .fmtExt64Last => true
  | .errNone => true
  | .errFileLine f l e => f != 0 || l != 0 || e != 0
  | .errFileInst _ _ _ => true
  | .errPair _ _ => c.errCode2 == .decided
  | .errReserved t _ => c.errCode2 == .decided && t != 0
  | .errLegacy _ => true
  | .litSubst => true
  | .litEscape _ => true
  | .litByte b => b != dollar && b != percent
  | .xEscape _ => true
  | .xIntFixed s conv rest => widthOk s.width && (fixedDigits s conv rest).isSome
  | .xIntD s rest => widthOk s.width && s.len != .z && (fixedDigits s .dec rest).isNone
  | .xIntU s rest => widthOk s.width && s.len != .z && (fixedDigits s .unsigned rest).isNone
  | .xIntX s rest => widthOk s.width && s.len != .z && (fixedDigits s .hexLower rest).isNone
  | .xIntXU s rest => widthOk s.width && s.len != .z && (fixedDigits s .hexUpper rest).isNone
  | .xIntC s rest => widthOk s.width && s.len != .z && (fixedDigits s .char rest).isNone
  | .xLenZ s conv rest => widthOk s.width && s.len == .z && (fixedDigits s conv rest).isNone
  | .xStr s _ => widthOk s.width
  | .xStrFn s _ => widthOk s.width
  | .xPtrP _ => true
  | .xPtrT _ => true
  | .xPtrH _ => true
  | .xUnprocessed t => parseToken t == .unprocessed t
  | .xTsMarker => true

end Sys2Proof
end

