-- ==== Sys2Proof/Decode.lean ====
section
/-! DEFINITION. The decoder, total on every word and rejecting by name, and after it the encoder
(30_encoding.md R55 to R68). -/

namespace Sys2Proof

/-- The operation words (30_encoding.md R55): every word is legal. -/
def decodeHostop (op : BitVec 10) : Instr :=
  match (op.extractLsb' 8 2).toNat with
  | 0 => .feed (op.extractLsb' 0 8)
  | 1 => .takeDecoded (op.extractLsb' 0 8)
  | 2 => .takeErrors (op.extractLsb' 0 8)
  | _ => .reset (op.extractLsb' 0 8)

/-- The class of a byte fed in `IDLE` (40_frame_assembler.md R71). -/
def decodeIdleByte (c : Cfg) (b : Byte) : Instr :=
  if b = c.startMagic then .idleStartMagic else .idleRaw b

/-- The control byte's fields (30_encoding.md R56). -/
def ctlNparam (b : Byte) : BitVec 3 := b.extractLsb' 5 3
/-- Bit 4 of the control byte (30_encoding.md R56). -/
def ctlDropped (b : Byte) : Bool := b.getLsbD 4
/-- Bits 3:0 of the control byte (30_encoding.md R56). -/
def ctlSeq (b : Byte) : BitVec 4 := b.extractLsb' 0 4

/-- The control byte as an instruction (30_encoding.md R56). -/
def decodeCtl (b : Byte) : Instr := .ctl (ctlNparam b) (ctlDropped b) (ctlSeq b)

/-- Byte `i` of a byte string. -/
def byteAt (s : Bytes) (i : Nat) : Byte := (s[i]?).getD 0#8

/-- The little-endian value of `n` bytes at offset `off` of a header (00_scope.md R9). -/
def fieldAt (s : Bytes) (off n : Nat) : Nat := leVal ((s.drop off).take n)

/-- The timestamp assembled from its low and high words (20_memory.md R41). -/
def timestampOf (lo hi : Nat) : Timestamp := BitVec.ofNat 48 (hi * 2 ^ 32 + lo)

/-- `pay_len` of a Base header (30_encoding.md R57). -/
def basePayLen (s : Bytes) : BitVec 16 := BitVec.ofNat 16 (fieldAt s 10 2)
/-- `ts` of a Base header (30_encoding.md R57). -/
def baseTs (s : Bytes) : Timestamp := timestampOf (fieldAt s 4 4) (fieldAt s 8 2)
/-- `str_index` of an Extended header (30_encoding.md R58). -/
def extStrIndex (s : Bytes) : BitVec 16 := BitVec.ofNat 16 (fieldAt s 3 2)
/-- `ts` of an Extended header (30_encoding.md R58). -/
def extTs (s : Bytes) : Timestamp := timestampOf (fieldAt s 5 4) (fieldAt s 9 2)

/-- The payload and the trailer after a header that declares `n` payload bytes, if the frame has exactly
that length (30_encoding.md R60). -/
def splitPayload (n : Nat) (rest : Bytes) : Except DecodeReject (Bytes × Option Byte) :=
  if n = 0 then (if rest = [] then .ok ([], none) else .error .frameLength)
  else
    match rest.drop n with
    | [t] => .ok (rest.take n, some t)
    | _ => .error .frameLength

/-- A whole frame (30_encoding.md R57, R58, R60). -/
def decodeFrame (s : Bytes) : Except DecodeReject Instr :=
  if s.head? ≠ some 0xC0#8 ∧ s.head? ≠ some 0xC2#8 then .error .frameStartMagic
  else if s.length < headerSize then .error .frameShort
  else if s.head? = some 0xC0#8 then
    match splitPayload (basePayLen s).toNat (s.drop headerSize) with
    | .error e => .error e
    | .ok (payload, trailer) =>
      .ok (.baseFrame { ctl := byteAt s 1, channel := byteAt s 2, litLen := byteAt s 3, ts := baseTs s,
                        payLen := basePayLen s, crc := byteAt s 12, payload, trailer })
  else
    match splitPayload (byteAt s 11).toNat (s.drop headerSize) with
    | .error e => .error e
    | .ok (payload, trailer) =>
      .ok (.extFrame { ctl := byteAt s 1, channel := byteAt s 2, strIndex := extStrIndex s, ts := extTs s,
                       payLen := byteAt s 11, crc := byteAt s 12, payload, trailer })

/-- The format codes (30_encoding.md R63). -/
def decodeFmt4 (code : BitVec 4) : Instr :=
  match code.toNat with
  | 0 => .fmtDone
  | 1 => .fmtS32
  | 2 => .fmtU32
  | 3 => .fmtHex32
  | 4 => .fmtChar
  | 5 => .fmtErrcode
  | 6 => .fmtString
  | 7 => .fmtExt64
  | 8 => .fmtBad8
  | 9 => .fmtBad9
  | 10 => .fmtBad10
  | 11 => .fmtBad11
  | 12 => .fmtStruct
  | 13 => .fmtStrbuf
  | 14 => .fmtBytes
  | _ => .fmtWords

/-- The 64-bit forms: a code 7 and the code of the next slot (30_encoding.md R64). -/
def decodeFmt64 (code : BitVec 4) (next : Option (BitVec 4)) : Except DecodeReject Instr :=
  if code ≠ 7#4 then .error .notExt64Prefix
  else
    match next with
    | none => .ok .fmtExt64Last
    | some c =>
      .ok (match c.toNat with
        | 1 => .fmt64S64
        | 2 => .fmt64U64
        | 3 => .fmt64Hex64
        | 4 => .fmt64Time
        | _ => .fmt64Invalid c)

/-- The unpacked error code of a word (30_encoding.md R66, 42_base_extractor.md R115). -/
def unpackErrCode (l : ErrCode2Layout) (w : Word) : ErrCode :=
  if w = 0#32 then .none
  else
    match (w.extractLsb' 30 2).toNat with
    | 0 => .fileLine (w.extractLsb' 19 11) (w.extractLsb' 8 11) (w.extractLsb' 0 8)
    | 1 => .fileInst (w.extractLsb' 19 11) (w.extractLsb' 8 11) (w.extractLsb' 0 8)
    | 2 =>
      if w.extractLsb' l.subtypeLo 2 = l.pairSubtype then
        .pair (w.extractLsb' l.subcodeLo 12) (w.extractLsb' l.code16Lo 16)
      else .reserved (w.extractLsb' l.subtypeLo 2) (w.extractLsb' l.rawLo 28)
    | _ => .legacy (w.extractLsb' 0 30)

/-- The instruction of an unpacked error code. -/
def errInstr : ErrCode → Instr
  | .none => .errNone
  | .fileLine f l e => .errFileLine f l e
  | .fileInst f i e => .errFileInst f i e
  | .pair s c => .errPair s c
  | .reserved t r => .errReserved t r
  | .legacy v => .errLegacy v

/-- A byte class of the literal (30_encoding.md R67). -/
def decodeBlit : Bytes → Except DecodeReject Instr
  | [b] => .ok (if b = dollar then .litSubst else if b = percent then .litEscape none else .litByte b)
  | [b, c] => if b = percent then .ok (.litEscape (some c)) else .error .literalWord
  | _ => .error .literalWord

/-- The row of an integer conversion: fixed point first, then the `z` length, then the conversion
(44_extended_extractor.md R166, R167, R173; the order among the rows: log 9). -/
def intInstr (s : IntSpec) (conv : Conv) (rest : Bytes) : Instr :=
  if (fixedDigits s conv rest).isSome then .xIntFixed s conv rest
  else if s.len = .z then .xLenZ s conv rest
  else
    match conv with
    | .dec => .xIntD s rest
    | .unsigned => .xIntU s rest
    | .hexLower => .xIntX s rest
    | .hexUpper => .xIntXU s rest
    | .char => .xIntC s rest

/-- A template token as an instruction, given the parameter byte at `pc` (44_extended_extractor.md R161,
R174, R175). -/
def tokenInstr (t : Token) (peek : Option Byte) : Instr :=
  match t with
  | .escape rest => .xEscape rest
  | .int s conv rest => intInstr s conv rest
  | .str s rest => if peek = some 0xFF#8 then .xStrFn s rest else .xStr s rest
  | .ptr .P rest => .xPtrP rest
  | .ptr .T rest => .xPtrT rest
  | .ptr .h rest => .xPtrH rest
  | .unprocessed t => .xUnprocessed t

/-- The decoder. -/
def decode (c : Cfg) : IssueWord → Except DecodeReject Instr
  | .hostop op => .ok (decodeHostop op)
  | .idleByte b => .ok (decodeIdleByte c b)
  | .frameByte b => .ok (.frameByte b)
  | .frame s => decodeFrame s
  | .ctl b => .ok (decodeCtl b)
  | .fmt4 code => .ok (decodeFmt4 code)
  | .fmt64 code next => decodeFmt64 code next
  | .errw w => .ok (errInstr (unpackErrCode c.errCode2 w))
  | .blit s => decodeBlit s
  | .xspec t peek => .ok (tokenInstr (parseToken t) peek)
  | .xmarker s => if s = c.tsMarker.bytes then .ok .xTsMarker else .error .notTheMarker
  | .reconfigure _ => .error .configurationFixed

/-! ### The encoder -/

/-- The first 12 bytes of a Base header (30_encoding.md R57). -/
def BaseFrame.header (f : BaseFrame) : Bytes :=
  0xC0#8 :: f.ctl :: f.channel :: f.litLen ::
    (leBytes 4 (f.ts.toNat % 2 ^ 32) ++ leBytes 2 (f.ts.toNat / 2 ^ 32) ++ leBytes 2 f.payLen.toNat)

/-- The bytes of a Base frame (30_encoding.md R57, R60). -/
def BaseFrame.bytes (f : BaseFrame) : Bytes :=
  f.header ++ f.crc :: (f.payload ++ f.trailer.toList)

/-- The first 12 bytes of an Extended header (30_encoding.md R58). -/
def ExtFrame.header (f : ExtFrame) : Bytes :=
  0xC2#8 :: f.ctl :: f.channel ::
    (leBytes 2 f.strIndex.toNat ++ leBytes 4 (f.ts.toNat % 2 ^ 32) ++ leBytes 2 (f.ts.toNat / 2 ^ 32) ++
      [f.payLen])

/-- The bytes of an Extended frame (30_encoding.md R58, R60). -/
def ExtFrame.bytes (f : ExtFrame) : Bytes :=
  f.header ++ f.crc :: (f.payload ++ f.trailer.toList)

/-- The control byte of its fields (30_encoding.md R56). -/
def ctlByte (nparam : BitVec 3) (dropped : Bool) (seq : BitVec 4) : Byte :=
  nparam ++ BitVec.ofBool dropped ++ seq

/-- The error-code word of an unpacked error code, under the decided layout (30_encoding.md R66). -/
def packErrCode : ErrCode → Word
  | .none => 0#32
  | .fileLine f l e => 0#2 ++ f ++ l ++ e
  | .fileInst f i e => 1#2 ++ f ++ i ++ e
  | .pair s c => 8#4 ++ s ++ c
  | .reserved t r => 2#2 ++ t ++ r
  | .legacy v => 3#2 ++ v

/-- The encoder: the word of a well-formed instruction. -/
def encode (c : Cfg) : Instr → IssueWord
  | .feed b => .hostop (0#2 ++ b)
  | .takeDecoded x => .hostop (1#2 ++ x)
  | .takeErrors x => .hostop (2#2 ++ x)
  | .reset x => .hostop (3#2 ++ x)
  | .idleStartMagic => .idleByte c.startMagic
  | .idleRaw b => .idleByte b
  | .frameByte b => .frameByte b
  | .baseFrame f => .frame f.bytes
  | .extFrame f => .frame f.bytes
  | .ctl n d s => .ctl (ctlByte n d s)
  | .fmtDone => .fmt4 0#4
  | .fmtS32 => .fmt4 1#4
  | .fmtU32 => .fmt4 2#4
  | .fmtHex32 => .fmt4 3#4
  | .fmtChar => .fmt4 4#4
  | .fmtErrcode => .fmt4 5#4
  | .fmtString => .fmt4 6#4
  | .fmtExt64 => .fmt4 7#4
  | .fmtBad8 => .fmt4 8#4
  | .fmtBad9 => .fmt4 9#4
  | .fmtBad10 => .fmt4 10#4
  | .fmtBad11 => .fmt4 11#4
  | .fmtStruct => .fmt4 12#4
  | .fmtStrbuf => .fmt4 13#4
  | .fmtBytes => .fmt4 14#4
  | .fmtWords => .fmt4 15#4
  | .fmt64S64 => .fmt64 7#4 (some 1#4)
  | .fmt64U64 => .fmt64 7#4 (some 2#4)
  | .fmt64Hex64 => .fmt64 7#4 (some 3#4)
  | .fmt64Time => .fmt64 7#4 (some 4#4)
  | .fmt64Invalid n => .fmt64 7#4 (some n)
  | .fmtExt64Last => .fmt64 7#4 none
  | .errNone => .errw (packErrCode .none)
  | .errFileLine f l e => .errw (packErrCode (.fileLine f l e))
  | .errFileInst f i e => .errw (packErrCode (.fileInst f i e))
  | .errPair s k => .errw (packErrCode (.pair s k))
  | .errReserved t r => .errw (packErrCode (.reserved t r))
  | .errLegacy v => .errw (packErrCode (.legacy v))
  | .litSubst => .blit (LitOp.bytes .subst)
  | .litEscape x => .blit (LitOp.bytes (.escape x))
  | .litByte b => .blit (LitOp.bytes (.byte b))
  | .xEscape rest => .xspec (Token.escape rest).bytes none
  | .xIntFixed s conv rest => .xspec (Token.int s conv rest).bytes none
  | .xIntD s rest => .xspec (Token.int s .dec rest).bytes none
  | .xIntU s rest => .xspec (Token.int s .unsigned rest).bytes none
  | .xIntX s rest => .xspec (Token.int s .hexLower rest).bytes none
  | .xIntXU s rest => .xspec (Token.int s .hexUpper rest).bytes none
  | .xIntC s rest => .xspec (Token.int s .char rest).bytes none
  | .xLenZ s conv rest => .xspec (Token.int s conv rest).bytes none
  | .xStr s rest => .xspec (Token.str s rest).bytes none
  | .xStrFn s rest => .xspec (Token.str s rest).bytes (some 0xFF#8)
  | .xPtrP rest => .xspec (Token.ptr .P rest).bytes none
  | .xPtrT rest => .xspec (Token.ptr .T rest).bytes none
  | .xPtrH rest => .xspec (Token.ptr .h rest).bytes none
  | .xUnprocessed t => .xspec t none
  | .xTsMarker => .xmarker c.tsMarker.bytes

/-! ### Words numbered as spec/opcode_table.json numbers them -/

/-- The word of the table whose bits are `w`, by its width in bits: 4-bit codes and code pairs and
one-byte literal classes in 8 bits, operation words and the two-byte escape in 16, error-code words in 32
(log 11). -/
def tableWord (nbits w : Nat) : Option IssueWord :=
  if nbits ≤ 8 then
    if w < 16 then some (.fmt4 (BitVec.ofNat 4 w))
    else if w / 16 = 7 then some (.fmt64 7#4 (some (BitVec.ofNat 4 (w % 16))))
    else if w < 256 then some (.blit [BitVec.ofNat 8 w])
    else none
  else if nbits ≤ 16 then
    if w < 1024 then some (.hostop (BitVec.ofNat 10 w))
    else if w / 256 = 0x25 then some (.blit [percent, BitVec.ofNat 8 (w % 256)])
    else none
  else if nbits ≤ 32 then
    if w < 2 ^ 32 then some (.errw (BitVec.ofNat 32 w)) else none
  else none

/-- The instruction the decoder reads from a word of the table. -/
def decodeTableWord (nbits w : Nat) : Option Instr :=
  match tableWord nbits w with
  | none => none
  | some iw =>
    match decode Cfg.default iw with
    | .ok i => some i
    | .error _ => none

end Sys2Proof
end

