-- ==== Sys2Proof/Machine/State.lean ====
section
/-! DEFINITION. The state of one instance as plain data (10_state.md), the records it queues, the reasons a
step can stop, and the state after reset. -/

namespace Sys2Proof.Machine

/-- `ASM_STATE` (10_state.md R23). -/
inductive AsmState where
  | idle
  | hdr
  | pay
deriving DecidableEq, Repr

/-- The frame buffer's written bytes, by rising address (10_state.md R24, 20_memory.md R42).  An unlisted
address holds no value of the model's: it reads as `Config.unwrittenByte` (log 4). -/
abbrev Mem := List Host.Cell

/-- The canonical form: addresses strictly rising.  An unlisted address has no listed value, so no entry
can equal it. -/
abbrev Mem.wf (m : Mem) : Prop := m.Pairwise (fun x y => x.1 < y.1)

/-- An item of a Base frame (42_base_extractor.md). -/
inductive BaseItem where
  | s32 (v : Int)
  | u32 (v : Word)
  | hex32 (v : Word)
  | char (c : Byte)
  | err (e : ErrCode)
  | str (s : Bytes)
  | s64 (v : Int)
  | u64 (v : BitVec 64)
  | hex64 (v : BitVec 64)
  | time (v : BitVec 64)
  | struct (typeId : BitVec 16) (s : Bytes)
  | bytes (s : Bytes)
  | words (s : Bytes)
  | badPtr
  | badSize
  | badFormat (c : BitVec 4)
  | badFormatL (c : BitVec 4)
deriving DecidableEq, Repr

/-- An item of an Extended frame (44_extended_extractor.md). -/
inductive ExtItem where
  | int (size : Nat) (signed : Bool) (v : Int)
  | fixed (v : Int) (n : Nat)
  | str (s : Bytes)
  | fn (index : BitVec 32)
  | ptrP (v : BitVec 32)
  | ptrT (v : BitVec 64)
  | ptrH (s : Bytes)
deriving DecidableEq, Repr

/-- A frame record (10_state.md R29).  `litLen` and `items` belong to a Base record, `strIndex` and
`extItems` to an Extended one; `payLen` of an Extended record is below 256. -/
structure FrameRec where
  variant : Variant
  ctl : Byte
  seq : BitVec 4
  dropped : Bool
  nparam : BitVec 3
  channel : Byte
  litLen : Option Byte
  strIndex : Option (BitVec 16)
  ts : Timestamp
  payLen : BitVec 16
  payload : Bytes
  trailer : Option Byte
  items : List BaseItem
  extItems : List ExtItem
  badLen : Bool
  text : Bytes
deriving DecidableEq, Repr

/-- A condition record (10_state.md R30, 60_exceptions.md R200). -/
inductive Condition where
  | missingPackets (got expect : BitVec 4)
  | senderDropped
  | missingEndMagic (actual : Byte)
deriving DecidableEq, Repr

/-- What the last operation returned to the host (30_encoding.md R55).  `consumedEach` is the list of
`consumed` bits of a FEED* (45_host_interface.md R194). -/
inductive OpResult where
  | none
  | consumed (c : Bool)
  | consumedEach (cs : List Bool)
  | decoded (records : List FrameRec) (text : Bytes)
  | errors (conds : List Condition) (texts : List Bytes)
deriving DecidableEq, Repr

/-- The local variables of the procedures a completing FEED runs: the record in progress
(40_frame_assembler.md R78), the slot `i`, the trailing cursor `cur` and the end of the slot loop or of the
template scan (42_base_extractor.md R105, R107), the item index `k` and the literal position `j`
(43_base_render.md R146), the parameter cursor `pc` (44_extended_extractor.md R161).  They exist only
inside one step (10_state.md R32). -/
structure Work where
  frame : FrameRec
  slot : Nat
  cur : Nat
  stop : Bool
  nextItem : Nat
  litPos : Nat
  pc : Nat
deriving DecidableEq, Repr

/-- The record in progress before any header field is read. -/
def FrameRec.blank (v : Variant) : FrameRec :=
  { variant := v, ctl := 0, seq := 0, dropped := false, nparam := 0, channel := 0, litLen := .none,
    strIndex := .none, ts := 0, payLen := 0, payload := [], trailer := .none, items := [], extItems := [],
    badLen := false, text := [] }

/-- The local variables outside a completing FEED. -/
def Work.idle : Work :=
  { frame := FrameRec.blank .base, slot := 0, cur := 0, stop := false, nextItem := 0, litPos := 0, pc := 0 }

/-- The state of one instance. -/
structure State where
  /-- the configuration (10_state.md R20) -/
  cfg : Cfg
  /-- `ASM_STATE` (R23) -/
  asm : AsmState
  /-- `BUF` (R24) -/
  buf : Mem
  /-- `BUF_LEN` (R24) -/
  bufLen : BitVec 17
  /-- `EXP_LEN` (R25) -/
  expLen : BitVec 17
  /-- `SEQ_VALID` (R27) -/
  seqValid : Bool
  /-- `NEXT_SEQ` (R27) -/
  nextSeq : BitVec 4
  /-- `LAST_TS` (R28) -/
  lastTs : Timestamp
  /-- `DEC_FIFO` (R29), oldest first -/
  decFifo : List FrameRec
  /-- `ERR_FIFO` (R30), oldest first -/
  errFifo : List Condition
  /-- the local variables of the step in progress (R32; log 3) -/
  work : Work
  /-- what the last operation returned (R33; log 14) -/
  result : OpResult
  /-- the MODEL's own field: the words issued to the block and not yet taken, oldest first (log 2) -/
  issue : List IssueWord
deriving DecidableEq, Repr

/-- Why the machine stops.  The spec has no fault (60_exceptions.md R206). -/
inductive Fault where
  /-- Raised by FEED (and by the rows that feed bytes) when `BUF_LEN` is not below `FRAME_MAX`, so that the
  byte would be written outside the frame buffer (20_memory.md R42).  No state reached from reset raises
  it.  Safe: the model stops. -/
  | bufferOverrun
deriving DecidableEq, Repr

/-- Why a step has no meaning. -/
inductive Refusal where
  /-- Raised by no arm: every instruction has its meaning.  Safe. -/
  | notModelled (mnemonic : String)
  /-- Raised by the step when the word it fetches is no encoding of the table, or tries to change the
  configuration (70_reset_and_hazards.md R238).  Safe: the model stops. -/
  | undecodable (why : DecodeReject)
deriving DecidableEq, Repr

/-- A newly constructed instance (70_reset_and_hazards.md R231): every register at the value of
10_state.md R35.  The local variables, the result and the queue are empty (DESIGN CHOICE, log 2, 3, 14). -/
def State.constructed (c : Cfg) : State :=
  { cfg := c, asm := .idle, buf := [], bufLen := 0, expLen := 0, seqValid := false, nextSeq := 0,
    lastTs := 0, decFifo := [], errFifo := [], work := Work.idle, result := .none, issue := [] }

/-- The machine right after reset (10_state.md R35), constructed with `Cfg.default` (DESIGN CHOICE,
log 1). -/
def State.reset : State := State.constructed Cfg.default

end Sys2Proof.Machine
end

