-- ==== Sys2Proof/Machine/Ops.lean ====
section
/-! DEFINITION. The named operations over the frame buffer, the registers and the FIFOs, and raising a
condition, which is all the exception handling the block has (60_exceptions.md R208). -/

namespace Sys2Proof.Machine

/-- The byte written at an address, if any. -/
def Mem.find : Mem → Nat → Option Byte
  | [], _ => none
  | (a, b) :: m, x => if a = x then some b else Mem.find m x

/-- `BUF[i]` (00_scope.md R9).  A byte nothing has written is a free value (10_state.md R24; log 4). -/
def Mem.read (m : Mem) (i : Nat) : Byte := (Mem.find m i).getD (Config.unwrittenByte i)

/-- `BUF[a .. a+n)` (00_scope.md R8). -/
def Mem.readBytes (m : Mem) (a n : Nat) : Bytes := (List.range n).map fun k => Mem.read m (a + k)

/-- `BUF[i] <- b`, keeping the canonical form. -/
def Mem.write : Mem → Nat → Byte → Mem
  | [], x, v => [(x, v)]
  | (a, b) :: m, x, v =>
    if x < a then (x, v) :: (a, b) :: m
    else if x = a then (x, v) :: m
    else (a, b) :: Mem.write m x v

namespace State

/-- Write what the operation returns (10_state.md R33). -/
def setResult (r : OpResult) (s : State) : State := { s with result := r }

/-- Write the local variables. -/
def setWork (w : Work) (s : State) : State := { s with work := w }

/-- Write the queue of issued words. -/
def setIssue (q : List IssueWord) (s : State) : State := { s with issue := q }

/-- `raise C(info)`: append a condition record and go on (00_scope.md R9, 60_exceptions.md R200, R208). -/
def raise (k : Condition) (s : State) : State := { s with errFifo := s.errFifo ++ [k] }

/-- `emit Frame(rec)`: append a frame record (00_scope.md R9). -/
def emit (r : FrameRec) (s : State) : State := { s with decFifo := s.decFifo ++ [r] }

/-- `BUF[BUF_LEN] <- b; BUF_LEN <- BUF_LEN + 1` (40_frame_assembler.md R72). -/
def accumulate (b : Byte) (s : State) : State :=
  { s with buf := Mem.write s.buf s.bufLen.toNat b, bufLen := s.bufLen + 1 }

/-- `BUF[0] <- b; BUF_LEN <- 1; ASM_STATE <- HDR` (40_frame_assembler.md R71). -/
def startFrame (b : Byte) (s : State) : State :=
  { s with buf := Mem.write s.buf 0 b, bufLen := 1, asm := .hdr }

/-- `GoIdle`: `ASM_STATE <- IDLE; BUF_LEN <- 0` (40_frame_assembler.md R79).  `EXP_LEN` and the bytes of
`BUF` keep their values. -/
def goIdle (s : State) : State := { s with asm := .idle, bufLen := 0 }

/-- `EXP_LEN <- n; ASM_STATE <- PAY` (40_frame_assembler.md R75). -/
def expectPayload (n : BitVec 17) (s : State) : State := { s with expLen := n, asm := .pay }

/-- Write the tracker registers (41_sequence_tracker.md R94, R95). -/
def setTracker (v : Bool) (n : BitVec 4) (ts : Timestamp) (s : State) : State :=
  { s with seqValid := v, nextSeq := n, lastTs := ts }

/-- `DEC_FIFO <- []` (45_host_interface.md R186). -/
def clearDecoded (s : State) : State := { s with decFifo := [] }

/-- `ERR_FIFO <- []` (45_host_interface.md R187). -/
def clearErrors (s : State) : State := { s with errFifo := [] }

/-- RESET's writes (70_reset_and_hazards.md R230).  The bytes of `BUF` are not among them (10_state.md R24;
log 4); the local variables end with the operation (log 3). -/
def resetRegs (s : State) : State :=
  { s with asm := .idle, bufLen := 0, expLen := 0, seqValid := false, nextSeq := 0, lastTs := 0,
           decFifo := [], errFifo := [], work := Work.idle }

/-- Run one extraction operation on the local variables.  It returns nothing to the host. -/
def runWork (f : Work → Work) (s : State) : Host.Outcome State Fault Refusal :=
  .next ((s.setWork (f s.work)).setResult .none)

end State

end Sys2Proof.Machine
end

