-- ==== Sys2Proof/Machine/Operands.lean ====
section
/-! DEFINITION. Every operand form: the header fields in `BUF` (30_encoding.md R56 to R58), the Base payload's
codes, words and trailing data (R61 to R65; 42_base_extractor.md R107), and the Extended parameter stream
(44_extended_extractor.md R162). -/

namespace Sys2Proof.Machine

/-! ### The header (10_state.md R26: functions of `BUF`, not registers) -/

/-- `BUF[0 .. HEADER_SIZE)`. -/
def State.header (s : State) : Bytes := Mem.readBytes s.buf 0 headerSize

/-- `ctl` of the frame in progress (30_encoding.md R56). -/
def State.hdrCtl (s : State) : Byte := byteAt s.header 1

/-- `ts` of the frame in progress (30_encoding.md R57, R58). -/
def State.hdrTs (s : State) : Timestamp :=
  match s.cfg.variant with
  | .base => baseTs s.header
  | .extended => extTs s.header

/-- `pay_len` of the frame in progress (30_encoding.md R57, R58). -/
def State.hdrPayLen (s : State) : BitVec 16 :=
  match s.cfg.variant with
  | .base => basePayLen s.header
  | .extended => (byteAt s.header 11).zeroExtend 16

/-- The byte at the trailer position, `BUF[13 + pay_len]` (40_frame_assembler.md R77). -/
def State.trailerByte (s : State) : Byte := Mem.read s.buf (headerSize + s.hdrPayLen.toNat)

/-- The frame record before extraction (40_frame_assembler.md R78, 10_state.md R29). -/
def State.headerRec (s : State) : FrameRec :=
  { FrameRec.blank s.cfg.variant with
    ctl := s.hdrCtl, seq := ctlSeq s.hdrCtl, dropped := ctlDropped s.hdrCtl, nparam := ctlNparam s.hdrCtl,
    channel := byteAt s.header 2,
    litLen := (match s.cfg.variant with | .base => some (byteAt s.header 3) | .extended => none),
    strIndex := (match s.cfg.variant with | .base => none | .extended => some (extStrIndex s.header)),
    ts := s.hdrTs, payLen := s.hdrPayLen,
    payload := Mem.readBytes s.buf headerSize s.hdrPayLen.toNat,
    trailer := if s.hdrPayLen.toNat > 0 then some s.trailerByte else none }

/-! ### The payload -/

namespace Work

/-- `P`: the payload's length (30_encoding.md R61). -/
def paySize (w : Work) : Nat := w.frame.payload.length

/-- `L`: the literal's length (30_encoding.md R61). -/
def litSize (w : Work) : Nat := (w.frame.litLen.getD 0).toNat

/-- `N`: the number of parameter slots (30_encoding.md R61). -/
def slots (w : Work) : Nat := w.frame.nparam.toNat

/-- `NB = (N + 1) div 2`: the number of nibble bytes (30_encoding.md R61). -/
def nibbleBytes (w : Work) : Nat := (w.slots + 1) / 2

/-- `F = L + NB + 4N`: the size of the fixed part (30_encoding.md R61). -/
def fixedSize (w : Work) : Nat := w.litSize + w.nibbleBytes + 4 * w.slots

/-- One byte of the payload, a byte of `BUF` (00_scope.md R9).  Past the payload it is a byte nothing has
written (log 4); FEED never reads there. -/
def payByte (w : Work) (off : Nat) : Byte :=
  (w.frame.payload[off]?).getD (Config.unwrittenByte (headerSize + off))

/-- `PayRead(off, n)` (00_scope.md R9). -/
def payRead (w : Work) (off n : Nat) : Nat := leVal ((List.range n).map fun k => w.payByte (off + k))

/-- `Code(i)`: the format code of slot `i` (30_encoding.md R62). -/
def code (c : Cfg) (w : Work) (i : Nat) : BitVec 4 :=
  let nb := w.payByte (w.litSize + i / 2)
  match c.nibbleOrder, i % 2 with
  | .lowFirst, 0 => nb.extractLsb' 0 4
  | .lowFirst, _ => nb.extractLsb' 4 4
  | .highFirst, 0 => nb.extractLsb' 4 4
  | .highFirst, _ => nb.extractLsb' 0 4

/-- `word[i]`: the parameter word of slot `i` (30_encoding.md R61). -/
def word (w : Work) (i : Nat) : Word :=
  BitVec.ofNat 32 (w.payRead (w.litSize + w.nibbleBytes + 4 * i) 4)

/-- The parameter word of the current slot. -/
def curWord (w : Work) : Word := w.word w.slot

/-- The 64-bit value of slots `i` and `i+1`: slot `i` is the low half (42_base_extractor.md R119,
20_memory.md R41). -/
def pairValue (w : Work) : BitVec 64 := w.word (w.slot + 1) ++ w.word w.slot

/-- `count`: the low half of the count word (30_encoding.md R65). -/
def count (w : Work) : BitVec 16 := w.curWord.extractLsb' 0 16

/-- `type_id`: the high half of a code-12 count word (30_encoding.md R65). -/
def typeId (w : Work) : BitVec 16 := w.curWord.extractLsb' 16 16

/-- `TrailRead(n)`: the bytes and the cursor after them, or none for `BADLEN` (42_base_extractor.md R107). -/
def trailRead (w : Work) (n : Nat) : Option (Bytes × Work) :=
  if w.cur + n > w.paySize then none
  else some ((w.frame.payload.drop w.cur).take n, { w with cur := w.cur + n })

/-- `Read(n)` of the bytes at `pc`, or none for `BADLEN` (44_extended_extractor.md, section 2). -/
def readBytes (w : Work) (n : Nat) : Option (Bytes × Work) :=
  if w.pc + n > w.paySize then none
  else some ((w.frame.payload.drop w.pc).take n, { w with pc := w.pc + n })

/-- The parameter byte at `pc`, none at the end of the payload (44_extended_extractor.md R174, R175). -/
def peek (w : Work) : Option Byte := w.frame.payload[w.pc]?

/-- The literal: the first `min(L, P)` bytes of the payload (42_base_extractor.md R105, R106). -/
def literal (w : Work) : Bytes := w.frame.payload.take (min w.litSize w.paySize)

end Work

end Sys2Proof.Machine
end

