-- ==== Sys2Proof/Machine/BaseExtract.lean ====
section
/-! DEFINITION. The Base parameter extractor: one operation per format code, 64-bit form and error-code
sub-format, each of which yields an item and advances the slot, or ends the loop (42_base_extractor.md R109
to R125); and the slot loop of BaseDecode (R105). -/

namespace Sys2Proof.Machine

namespace Work

/-- Append an item and go on at slot `i + k` (42_base_extractor.md R105). -/
def pushItem (it : BaseItem) (k : Nat) (w : Work) : Work :=
  { w with frame := { w.frame with items := w.frame.items ++ [it] }, slot := w.slot + k }

/-- `STOP`: end the slot loop (42_base_extractor.md R105, R110). -/
def endLoop (w : Work) : Work := { w with stop := true }

/-- `BADLEN`: set `bad_len` and end the slot loop (42_base_extractor.md R105, R108). -/
def endBadLen (w : Work) : Work :=
  { w with frame := { w.frame with badLen := true }, stop := true }

/-- A string or buffer parameter: the sentinel 0xFFFF gives the placeholder item, another count reads that
many trailing bytes (42_base_extractor.md R107, R116, R125). -/
def countedItem (bad : BaseItem) (mk : Bytes → BaseItem) (w : Work) : Work :=
  if w.count = 0xFFFF#16 then w.pushItem bad 1
  else
    match w.trailRead w.count.toNat with
    | none => w.endBadLen
    | some (d, w') => w'.pushItem (mk d) 1

/-- Code 0 (R110). -/
def fmtDone (w : Work) : Work := w.endLoop
/-- Code 1 (R111). -/
def fmtS32 (w : Work) : Work := w.pushItem (.s32 w.curWord.toInt) 1
/-- Code 2 (R112). -/
def fmtU32 (w : Work) : Work := w.pushItem (.u32 w.curWord) 1
/-- Code 3 (R113). -/
def fmtHex32 (w : Work) : Work := w.pushItem (.hex32 w.curWord) 1
/-- Code 4 (R114): bits 31:8 are ignored. -/
def fmtChar (w : Work) : Work := w.pushItem (.char (w.curWord.extractLsb' 0 8)) 1
/-- An unpacked error code as the slot's item (R115). -/
def errItem (e : ErrCode) (w : Work) : Work := w.pushItem (.err e) 1
/-- Code 5 (R115). -/
def fmtErrcode (c : Cfg) (w : Work) : Work := w.errItem (unpackErrCode c.errCode2 w.curWord)
/-- Code 6 (R116). -/
def fmtString (w : Work) : Work := w.countedItem .badPtr .str
/-- The four 64-bit forms and the invalid ones, by the second nibble (R118). -/
def form64 (n : BitVec 4) (w : Work) : Work :=
  match n.toNat with
  | 1 => w.pushItem (.s64 w.pairValue.toInt) 2
  | 2 => w.pushItem (.u64 w.pairValue) 2
  | 3 => w.pushItem (.hex64 w.pairValue) 2
  | 4 => w.pushItem (.time w.pairValue) 2
  | _ => w.pushItem (.badFormatL n) 2
/-- A code 7 in the last slot (R117). -/
def ext64Last (w : Work) : Work := w.pushItem (.badFormat 7) 1
/-- Code 7 (R117). -/
def fmtExt64 (c : Cfg) (w : Work) : Work :=
  if w.slot + 1 = w.slots then w.ext64Last else w.form64 (w.code c (w.slot + 1))
/-- Codes 8 to 11 (R120): the word is not read. -/
def badFormat (n : BitVec 4) (w : Work) : Work := w.pushItem (.badFormat n) 1
/-- Code 12 (R121). -/
def fmtStruct (w : Work) : Work := w.countedItem .badSize (.struct w.typeId)
/-- Code 13 (R122). -/
def fmtStrbuf (w : Work) : Work := w.countedItem .badSize .str
/-- Code 14 (R123). -/
def fmtBytes (w : Work) : Work := w.countedItem .badSize .bytes
/-- Code 15 (R124). -/
def fmtWords (w : Work) : Work := w.countedItem .badSize .words

/-- `ExtractSlot(i)` and the loop's use of its answer (42_base_extractor.md R105, R109). -/
def extractSlot (c : Cfg) (w : Work) : Work :=
  match (w.code c w.slot).toNat with
  | 0 => w.fmtDone
  | 1 => w.fmtS32
  | 2 => w.fmtU32
  | 3 => w.fmtHex32
  | 4 => w.fmtChar
  | 5 => w.fmtErrcode c
  | 6 => w.fmtString
  | 7 => w.fmtExt64 c
  | 8 => w.badFormat 8
  | 9 => w.badFormat 9
  | 10 => w.badFormat 10
  | 11 => w.badFormat 11
  | 12 => w.fmtStruct
  | 13 => w.fmtStrbuf
  | 14 => w.fmtBytes
  | _ => w.fmtWords

/-- The slot loop: at most `N` slots, ended early by STOP or BADLEN (42_base_extractor.md R105). -/
def slotLoop (c : Cfg) : Nat → Work → Work
  | 0, w => w
  | n + 1, w => if w.stop ∨ w.slots ≤ w.slot then w else slotLoop c n (w.extractSlot c)

/-- BaseDecode without its last line: the items and `bad_len` (42_base_extractor.md R105, R106). -/
def baseItems (c : Cfg) (w : Work) : Work :=
  if w.fixedSize > w.paySize then w.endBadLen
  else slotLoop c w.slots { w with cur := w.fixedSize }

end Work

/-! ### FMT4 -/

/-- FMT_DONE (R110). -/
def execFmtDone (s : State) : Host.Outcome State Fault Refusal := s.runWork Work.fmtDone
/-- FMT_S32 (R111). -/
def execFmtS32 (s : State) : Host.Outcome State Fault Refusal := s.runWork Work.fmtS32
/-- FMT_U32 (R112). -/
def execFmtU32 (s : State) : Host.Outcome State Fault Refusal := s.runWork Work.fmtU32
/-- FMT_HEX32 (R113). -/
def execFmtHex32 (s : State) : Host.Outcome State Fault Refusal := s.runWork Work.fmtHex32
/-- FMT_CHAR (R114). -/
def execFmtChar (s : State) : Host.Outcome State Fault Refusal := s.runWork Work.fmtChar
/-- FMT_ERRCODE (R115). -/
def execFmtErrcode (s : State) : Host.Outcome State Fault Refusal := s.runWork (Work.fmtErrcode s.cfg)
/-- FMT_STRING (R116). -/
def execFmtString (s : State) : Host.Outcome State Fault Refusal := s.runWork Work.fmtString
/-- FMT_EXT64 (R117). -/
def execFmtExt64 (s : State) : Host.Outcome State Fault Refusal := s.runWork (Work.fmtExt64 s.cfg)
/-- FMT_BAD8 (R120). -/
def execFmtBad8 (s : State) : Host.Outcome State Fault Refusal := s.runWork (Work.badFormat 8)
/-- FMT_BAD9 (R120). -/
def execFmtBad9 (s : State) : Host.Outcome State Fault Refusal := s.runWork (Work.badFormat 9)
/-- FMT_BAD10 (R120). -/
def execFmtBad10 (s : State) : Host.Outcome State Fault Refusal := s.runWork (Work.badFormat 10)
/-- FMT_BAD11 (R120). -/
def execFmtBad11 (s : State) : Host.Outcome State Fault Refusal := s.runWork (Work.badFormat 11)
/-- FMT_STRUCT (R121). -/
def execFmtStruct (s : State) : Host.Outcome State Fault Refusal := s.runWork Work.fmtStruct
/-- FMT_STRBUF (R122). -/
def execFmtStrbuf (s : State) : Host.Outcome State Fault Refusal := s.runWork Work.fmtStrbuf
/-- FMT_BYTES (R123). -/
def execFmtBytes (s : State) : Host.Outcome State Fault Refusal := s.runWork Work.fmtBytes
/-- FMT_WORDS (R124). -/
def execFmtWords (s : State) : Host.Outcome State Fault Refusal := s.runWork Work.fmtWords

/-! ### FMT64 -/

/-- FMT64_S64: combined code 101 (R118). -/
def execFmt64S64 (s : State) : Host.Outcome State Fault Refusal := s.runWork (Work.form64 1)
/-- FMT64_U64: combined code 102 (R118). -/
def execFmt64U64 (s : State) : Host.Outcome State Fault Refusal := s.runWork (Work.form64 2)
/-- FMT64_HEX64: combined code 103 (R118). -/
def execFmt64Hex64 (s : State) : Host.Outcome State Fault Refusal := s.runWork (Work.form64 3)
/-- FMT64_TIME: combined code 104 (R118). -/
def execFmt64Time (s : State) : Host.Outcome State Fault Refusal := s.runWork (Work.form64 4)
/-- FMT64_INVALID: combined codes 100 and 105 to 115 (R118). -/
def execFmt64Invalid (n : BitVec 4) (s : State) : Host.Outcome State Fault Refusal :=
  s.runWork (Work.form64 n)
/-- FMT_EXT64_LAST: a code 7 in the last slot (R117). -/
def execFmtExt64Last (s : State) : Host.Outcome State Fault Refusal := s.runWork Work.ext64Last

/-! ### ERRW (R115): the sub-format of a code-5 word, as the slot's item -/

/-- ERR_NONE. -/
def execErrNone (s : State) : Host.Outcome State Fault Refusal := s.runWork (Work.errItem .none)
/-- ERR_FILE_LINE. -/
def execErrFileLine (f l : BitVec 11) (e : Byte) (s : State) : Host.Outcome State Fault Refusal :=
  s.runWork (Work.errItem (.fileLine f l e))
/-- ERR_FILE_INST. -/
def execErrFileInst (f i : BitVec 11) (e : Byte) (s : State) : Host.Outcome State Fault Refusal :=
  s.runWork (Work.errItem (.fileInst f i e))
/-- ERR_PAIR. -/
def execErrPair (k : BitVec 12) (c : BitVec 16) (s : State) : Host.Outcome State Fault Refusal :=
  s.runWork (Work.errItem (.pair k c))
/-- ERR_RESERVED. -/
def execErrReserved (t : BitVec 2) (r : BitVec 28) (s : State) : Host.Outcome State Fault Refusal :=
  s.runWork (Work.errItem (.reserved t r))
/-- ERR_LEGACY. -/
def execErrLegacy (v : BitVec 30) (s : State) : Host.Outcome State Fault Refusal :=
  s.runWork (Work.errItem (.legacy v))

end Sys2Proof.Machine
end

