-- ==== Sys2Proof/Machine/CFormat.lean ====
section
/-! DEFINITION. `CFormat`: the C meaning of flags, width and precision for `d`, `u`, `x`, `X` and `c`
(44_extended_extractor.md R166, R168 to R172), the value a conversion reads (R166, R173), and the
fixed-point text (R167). -/

namespace Sys2Proof

/-- The bytes an integer conversion reads: 8 with `ll`, else 4 (44_extended_extractor.md R166, R173). -/
def IntSpec.size (s : IntSpec) : Nat := if s.len = .ll then 8 else 4

/-- Only `d` is signed (44_extended_extractor.md R166). -/
def Conv.signed (conv : Conv) : Bool := conv == .dec

/-- The value of an integer conversion: sign-extended for `d` (44_extended_extractor.md R166). -/
def intValue (size : Nat) (signed : Bool) (raw : Nat) : Int :=
  if signed then (BitVec.ofNat (8 * size) raw).toInt else (raw : Int)

/-- `n` copies of a byte. -/
def fill (n : Nat) (b : Byte) : Bytes := List.replicate n b

/-- Flag combinations C leaves undefined: `#` with `d`, `u` or `c`; a precision or `0` with `c`
(93_implementation_defined.md). -/
def undefinedInC (s : IntSpec) (conv : Conv) : Bool :=
  match conv with
  | .dec => s.flags.contains .hash
  | .unsigned => s.flags.contains .hash
  | .char => s.flags.contains .hash || s.flags.contains .zero || s.prec.isSome
  | .hexLower => false
  | .hexUpper => false

/-- The sign of a signed conversion: `-`, else `+` or a space if the flag asks for it (PRESUMED, log 7). -/
def signText (s : IntSpec) (conv : Conv) (v : Int) : Bytes :=
  if conv ≠ .dec then []
  else if v < 0 then ascii ['-']
  else if s.flags.contains .plus then ascii ['+']
  else if s.flags.contains .space then ascii [' ']
  else []

/-- `0x` or `0X` of a non-zero value under `#` (PRESUMED, log 7). -/
def altText (s : IntSpec) (conv : Conv) (v : Int) : Bytes :=
  if s.flags.contains .hash ∧ v ≠ 0 then
    match conv with
    | .hexLower => ascii ['0', 'x']
    | .hexUpper => ascii ['0', 'X']
    | .dec => []
    | .unsigned => []
    | .char => []
  else []

/-- The digits of the magnitude, with at least as many digits as the precision; precision 0 writes nothing
for 0 (PRESUMED, log 7). -/
def magnitudeText (s : IntSpec) (conv : Conv) (v : Int) : Bytes :=
  let base := if conv = .hexLower ∨ conv = .hexUpper then 16 else 10
  let ds := digits base (conv == .hexUpper) v.natAbs
  match s.prec with
  | none => ds
  | some p =>
    if digitsValue p = 0 ∧ v = 0 then []
    else fill (digitsValue p - ds.length) 0x30#8 ++ ds

/-- Pad to the width with spaces, on the right under `-` (PRESUMED, log 7). -/
def padWidth (s : IntSpec) (body : Bytes) : Bytes :=
  let pad := fill (digitsValue s.width - body.length) 0x20#8
  if s.flags.contains .minus then body ++ pad else pad ++ body

/-- `CFormat("%" ++ FLAGS ++ WIDTH ++ PREC ++ CONV, v)` (44_extended_extractor.md R166): the C meaning
(PRESUMED, log 7), a free value where C gives none. -/
def cformat (s : IntSpec) (conv : Conv) (v : Int) : Bytes :=
  if undefinedInC s conv then Config.cformatUndefined (percent :: s.formatBytes ++ [conv.byte]) v
  else if conv = .char then padWidth s [BitVec.ofInt 8 v]
  else
    let sign := signText s conv v ++ altText s conv v
    let mag := magnitudeText s conv v
    if s.flags.contains .zero ∧ ¬ s.flags.contains .minus ∧ s.prec.isNone then
      sign ++ fill (digitsValue s.width - (sign.length + mag.length)) 0x30#8 ++ mag
    else padWidth s (sign ++ mag)

/-- The fixed-point text with `n` fraction digits (44_extended_extractor.md R167). -/
def fixedText (n : Nat) (v : Int) : Bytes :=
  (if v < 0 then ascii ['-'] else []) ++ decNat (v.natAbs / 10 ^ n) ++
    (if n > 0 then ascii ['.'] ++ padDigits 10 false n (v.natAbs % 10 ^ n) else [])

end Sys2Proof
end

