-- ==== Sys2Proof/Machine/Render.lean ====
section
/-! DEFINITION. The texts: of the items (43_base_render.md R140 to R149), of the frame prefix (R150), of the
struct handlers (45_host_interface.md R185) and of the conditions (60_exceptions.md R201 to R203). -/

namespace Sys2Proof.Machine

/-- `(bad len)` (43_base_render.md R148, 44_extended_extractor.md R180). -/
def badLenText : Bytes := ascii ['(', 'b', 'a', 'd', ' ', 'l', 'e', 'n', ')']

/-- `REGISTRY.resolve(t)(t, d)`: the registered handler's text, or the default handler's
(45_host_interface.md R185). -/
def resolveStruct (c : Cfg) (t : BitVec 16) (d : Bytes) : Bytes :=
  if c.registry.contains t then Config.structHandler t d
  else
    ascii ['B', 'a', 'd', 'S', 't', 'r', 'u', 'c', 't', '#'] ++ decNat t.toNat ++ ascii ['('] ++
      decNat d.length ++ ascii [')']

/-- The text of an unpacked error code (43_base_render.md R145). -/
def errText : ErrCode → Bytes
  | .none => ascii ['E', 'r', 'r', 'N', 'o', 'n', 'e']
  | .legacy v => hexW 8 v.toNat
  | .fileLine f l e => Config.errCodeText (.fileLine f l e)
  | .fileInst f i e => Config.errCodeText (.fileInst f i e)
  | .pair s k => Config.errCodeText (.pair s k)
  | .reserved t r => Config.errCodeText (.reserved t r)

/-- `Text(TIME(v))` (43_base_render.md R144). -/
def timeText (v : BitVec 64) : Bytes :=
  if v = BitVec.allOnes 64 then ascii ['(', 'F', 'O', 'R', 'E', 'V', 'E', 'R', ')'] else tsText v.toNat

/-- `Text(item)` (43_base_render.md R141 to R149). -/
def itemText (c : Cfg) : BaseItem → Bytes
  | .s32 v => dec v
  | .u32 v => decNat v.toNat
  | .hex32 v => hexW 8 v.toNat
  | .char b => ascii ['\''] ++ [b] ++ ascii ['\'']
  | .err e => errText e
  | .str s => s
  | .s64 v => dec v
  | .u64 v => decNat v.toNat
  | .hex64 v => hexW 16 v.toNat
  | .time v => timeText v
  | .struct t d => resolveStruct c t d
  | .bytes d => hexPairs d
  | .words d => hexWords (d.length / 4) d
  | .badPtr => Config.txtBadPtr
  | .badSize => Config.txtBadSize
  | .badFormat k => ascii ['B', 'a', 'd', 'F', 'o', 'r', 'm', 'a', 't'] ++ decNat k.toNat
  | .badFormatL k => ascii ['B', 'a', 'd', 'F', 'o', 'r', 'm', 'a', 't', 'L'] ++ decNat k.toNat

/-- `CHANNEL_TAG(channel)`: the one value 43_base_render.md R150 fixes, else a free value (log 6). -/
def channelTag (ch : Byte) : Bytes := if ch = 0x01#8 then ascii ['t', '1'] else Config.channelTag ch

/-- `FRAME_PREFIX(ts, channel)` (43_base_render.md R150; log 6). -/
def framePrefix (c : Cfg) (ts : Timestamp) (ch : Byte) : Bytes :=
  match c.prefixForm with
  | .bracketed => ascii ['['] ++ tsText ts.toNat ++ ascii ['/'] ++ channelTag ch ++ ascii [']']
  | .other => Config.framePrefix ts ch

/-- `CondText(c)` (60_exceptions.md R201 to R203). -/
def condText : Condition → Bytes
  | .missingPackets g e =>
    ascii ['(', 'm', 'i', 's', 's', 'i', 'n', 'g', ' ', 'p', 'a', 'c', 'k', 'e', 't', '(', 's', ')', ')',
      ';', ' ', 'g', 'o', 't', ' '] ++ decNat g.toNat ++
      ascii [' ', 'e', 'x', 'p', 'e', 'c', 't', ' '] ++ decNat e.toNat
  | .senderDropped =>
    ascii ['(', 's', 'e', 'n', 'd', 'e', 'r', ' ', 'd', 'r', 'o', 'p', 'p', 'e', 'd', ' ', 'p', 'a', 'c',
      'k', 'e', 't', '(', 's', ')', ')']
  | .missingEndMagic a => Config.txtMissingEnd a

end Sys2Proof.Machine
end

