-- ==== Sys2Proof/Machine/Literal.lean ====
section
/-! DEFINITION. The literal's expansion and the text of a Base frame (43_base_render.md R146 to R150). -/

namespace Sys2Proof.Machine

namespace Work

/-- `out <- out ++ s` (43_base_render.md R146, 44_extended_extractor.md R161). -/
def appendText (s : Bytes) (w : Work) : Work := { w with frame := { w.frame with text := w.frame.text ++ s } }

/-- `j <- j + n` (43_base_render.md R146). -/
def advanceLit (n : Nat) (w : Work) : Work := { w with litPos := w.litPos + n }

/-- `$`: the next item's text, nothing when no item is left (R146). -/
def litSubst (c : Cfg) (w : Work) : Work :=
  match w.frame.items[w.nextItem]? with
  | some it => ({ w with nextItem := w.nextItem + 1 }.appendText (itemText c it)).advanceLit 1
  | none => w.advanceLit 1

/-- `%` and the byte it escapes; nothing for a `%` that is the last byte (R146). -/
def litEscape (x : Option Byte) (w : Work) : Work := (w.appendText x.toList).advanceLit 2

/-- Any other byte (R146). -/
def litByte (b : Byte) (w : Work) : Work := (w.appendText [b]).advanceLit 1

/-- One step of the scan (R146). -/
def litStep (c : Cfg) (w : Work) (op : LitOp) : Work :=
  match op with
  | .subst => w.litSubst c
  | .escape x => w.litEscape x
  | .byte b => w.litByte b

/-- The items no `$` used, each after one space (R147). -/
def leftovers (c : Cfg) (w : Work) : Bytes :=
  (w.frame.items.drop w.nextItem).flatMap fun it => ascii [' '] ++ itemText c it

/-- `Expand(literal, items)`, appended to the text (R146, R147). -/
def expand (c : Cfg) (literal : Bytes) (w : Work) : Work :=
  let w' := (litOps literal).foldl (litStep c) { w with nextItem := 0, litPos := 0 }
  w'.appendText (w'.leftovers c)

/-- `BaseText`: the prefix, the expansion and the bad-len marker (R148, R150). -/
def baseText (c : Cfg) (w : Work) : Work :=
  let w' := (w.appendText (framePrefix c w.frame.ts w.frame.channel)).expand c w.literal
  if w'.frame.badLen then w'.appendText badLenText else w'

end Work

/-- LIT_SUBST (R146). -/
def execLitSubst (s : State) : Host.Outcome State Fault Refusal := s.runWork (Work.litSubst s.cfg)
/-- LIT_ESCAPE (R146). -/
def execLitEscape (x : Option Byte) (s : State) : Host.Outcome State Fault Refusal :=
  s.runWork (Work.litEscape x)
/-- LIT_BYTE (R146). -/
def execLitByte (b : Byte) (s : State) : Host.Outcome State Fault Refusal := s.runWork (Work.litByte b)

end Sys2Proof.Machine
end

