-- ==== Sys2Proof/Machine/ExtExtract.lean ====
section
/-! DEFINITION. The Extended extractor: one operation per conversion, each reading its bytes at `pc` and
appending its text, its token's rest and its item, or ending the scan (44_extended_extractor.md R160 to
R181). -/

namespace Sys2Proof.Machine

/-- `unprocessed format %` (44_extended_extractor.md R179). -/
def unprocessedText : Bytes :=
  ascii ['u', 'n', 'p', 'r', 'o', 'c', 'e', 's', 's', 'e', 'd', ' ', 'f', 'o', 'r', 'm', 'a', 't', ' ', '%']

namespace Work

/-- Append an item of an Extended frame. -/
def pushExt (it : ExtItem) (w : Work) : Work :=
  { w with frame := { w.frame with extItems := w.frame.extItems ++ [it] } }

/-- A conversion's text, then its token's rest, and its item (44_extended_extractor.md R161, R181). -/
def put (text rest : Bytes) (it : ExtItem) (w : Work) : Work := (w.appendText (text ++ rest)).pushExt it

/-- `BADLEN`: append the marker, set `bad_len`, end the scan (44_extended_extractor.md R161, R180). -/
def scanBadLen (w : Work) : Work :=
  { w with frame := { w.frame with text := w.frame.text ++ badLenText, badLen := true }, stop := true }

/-- `%%` (R165). -/
def xEscape (rest : Bytes) (w : Work) : Work := w.appendText (percent :: rest)

/-- The common part of an integer conversion (R166): read, extend, render. -/
def xIntWith (s : IntSpec) (conv : Conv) (render : Int → Bytes) (item : Int → ExtItem) (rest : Bytes)
    (w : Work) : Work :=
  match w.readBytes s.size with
  | none => w.scanBadLen
  | some (d, w') =>
    let v := intValue s.size conv.signed (leVal d)
    w'.put (render v) rest (item v)

/-- An integer conversion rendered by `CFormat` (R166, R168 to R173). -/
def xInt (s : IntSpec) (conv : Conv) (rest : Bytes) (w : Work) : Work :=
  w.xIntWith s conv (cformat s conv) (.int s.size conv.signed) rest

/-- A fixed-point conversion (R167). -/
def xIntFixed (s : IntSpec) (conv : Conv) (rest : Bytes) (w : Work) : Work :=
  let n := (fixedDigits s conv rest).getD 0
  w.xIntWith s conv (fixedText n) (fun v => .fixed v n) rest

/-- `%s`, an inline string up to its 0x00 (R174). -/
def xStr (rest : Bytes) (w : Work) : Work :=
  let d := w.frame.payload.drop w.pc
  let str := d.takeWhile (· ≠ 0#8)
  if str.length = d.length then w.scanBadLen
  else { w with pc := w.pc + str.length + 1 }.put str rest (.str str)

/-- `%s`, a function-name reference (R175). -/
def xStrFn (c : Cfg) (rest : Bytes) (w : Work) : Work :=
  match w.readBytes 5 with
  | none => w.scanBadLen
  | some (d, w') =>
    let j := BitVec.ofNat 32 (leVal (d.drop 1))
    w'.put ((c.fnTable[j.toNat]?).getD Config.txtBadFn) rest (.fn j)

/-- `%pP` (R176). -/
def xPtrP (rest : Bytes) (w : Work) : Work :=
  match w.readBytes 4 with
  | none => w.scanBadLen
  | some (d, w') => w'.put (hexW 8 (leVal d)) rest (.ptrP (BitVec.ofNat 32 (leVal d)))

/-- `%pT`: zero stands for the header timestamp (R177). -/
def xPtrT (rest : Bytes) (w : Work) : Work :=
  match w.readBytes 8 with
  | none => w.scanBadLen
  | some (d, w') =>
    let v := if leVal d = 0 then w.frame.ts.toNat else leVal d
    w'.put (decNat v) rest (.ptrT (BitVec.ofNat 64 v))

/-- `%ph`: a two-byte length, then that many bytes (R178). -/
def xPtrH (rest : Bytes) (w : Work) : Work :=
  match w.readBytes 2 with
  | none => w.scanBadLen
  | some (d, w1) =>
    match w1.readBytes (leVal d) with
    | none => w1.scanBadLen
    | some (data, w2) => w2.put (hexPairs data) rest (.ptrH data)

/-- A token no grammar matches (R179). -/
def xUnprocessed (t : Bytes) (w : Work) : Work := w.appendText (unprocessedText ++ t)

/-- The timestamp marker (R164). -/
def xTsMarker (w : Work) : Work := w.appendText (tsText w.frame.ts.toNat)

/-- `Convert(t)` and the scan's use of its answer (R161). -/
def convert (c : Cfg) (w : Work) (t : Token) : Work :=
  match t with
  | .escape rest => w.xEscape rest
  | .int s conv rest =>
    if (fixedDigits s conv rest).isSome then w.xIntFixed s conv rest else w.xInt s conv rest
  | .str _ rest => if w.peek = some 0xFF#8 then w.xStrFn c rest else w.xStr rest
  | .ptr .P rest => w.xPtrP rest
  | .ptr .T rest => w.xPtrT rest
  | .ptr .h rest => w.xPtrH rest
  | .unprocessed t => w.xUnprocessed t

/-- One turn of the template scan: a BADLEN has ended it (R161, R180). -/
def scanStep (c : Cfg) (w : Work) (t : Bytes) : Work :=
  if w.stop then w else w.convert c (parseToken t)

/-- The scan of a template without its marker (R161, R163). -/
def scan (c : Cfg) (t : Bytes) (w : Work) : Work :=
  (tokenize t).2.foldl (scanStep c) (w.appendText (tokenize t).1)

/-- The scan of a template: the marker, if it begins with it, then the rest (R161, R164). -/
def scanTemplate (c : Cfg) (t : Bytes) (w : Work) : Work :=
  if c.tsMarker.bytes.isPrefixOf t then w.xTsMarker.scan c (t.drop c.tsMarker.bytes.length)
  else w.scan c t

/-- ExtDecode: a string index outside the table gives the placeholder text (R160, R161). -/
def extDecode (c : Cfg) (w : Work) : Work :=
  match c.stringTable[(w.frame.strIndex.getD 0).toNat]? with
  | none => w.appendText Config.txtBadIndex
  | some t => w.scanTemplate c t

end Work

/-- X_ESCAPE (R165). -/
def execXEscape (rest : Bytes) (s : State) : Host.Outcome State Fault Refusal := s.runWork (Work.xEscape rest)
/-- X_INT_FIXED (R167). -/
def execXIntFixed (p : IntSpec) (conv : Conv) (rest : Bytes) (s : State) : Host.Outcome State Fault Refusal :=
  s.runWork (Work.xIntFixed p conv rest)
/-- X_INT_D (R168). -/
def execXIntD (p : IntSpec) (rest : Bytes) (s : State) : Host.Outcome State Fault Refusal :=
  s.runWork (Work.xInt p .dec rest)
/-- X_INT_U (R169). -/
def execXIntU (p : IntSpec) (rest : Bytes) (s : State) : Host.Outcome State Fault Refusal :=
  s.runWork (Work.xInt p .unsigned rest)
/-- X_INT_X (R170). -/
def execXIntX (p : IntSpec) (rest : Bytes) (s : State) : Host.Outcome State Fault Refusal :=
  s.runWork (Work.xInt p .hexLower rest)
/-- X_INT_XU (R171). -/
def execXIntXU (p : IntSpec) (rest : Bytes) (s : State) : Host.Outcome State Fault Refusal :=
  s.runWork (Work.xInt p .hexUpper rest)
/-- X_INT_C (R172). -/
def execXIntC (p : IntSpec) (rest : Bytes) (s : State) : Host.Outcome State Fault Refusal :=
  s.runWork (Work.xInt p .char rest)
/-- X_LEN_Z (R173): `z` is stripped, the read is 4 bytes. -/
def execXLenZ (p : IntSpec) (conv : Conv) (rest : Bytes) (s : State) : Host.Outcome State Fault Refusal :=
  s.runWork (Work.xInt { p with len := .z } conv rest)
/-- X_STR (R174): FLAGS and WIDTH are ignored. -/
def execXStr (_p : StrSpec) (rest : Bytes) (s : State) : Host.Outcome State Fault Refusal :=
  s.runWork (Work.xStr rest)
/-- X_STR_FN (R175): FLAGS and WIDTH are ignored. -/
def execXStrFn (_p : StrSpec) (rest : Bytes) (s : State) : Host.Outcome State Fault Refusal :=
  s.runWork (Work.xStrFn s.cfg rest)
/-- X_PTR_P (R176). -/
def execXPtrP (rest : Bytes) (s : State) : Host.Outcome State Fault Refusal := s.runWork (Work.xPtrP rest)
/-- X_PTR_T (R177). -/
def execXPtrT (rest : Bytes) (s : State) : Host.Outcome State Fault Refusal := s.runWork (Work.xPtrT rest)
/-- X_PTR_H (R178). -/
def execXPtrH (rest : Bytes) (s : State) : Host.Outcome State Fault Refusal := s.runWork (Work.xPtrH rest)
/-- X_UNPROCESSED (R179). -/
def execXUnprocessed (t : Bytes) (s : State) : Host.Outcome State Fault Refusal :=
  s.runWork (Work.xUnprocessed t)
/-- X_TS_MARKER (R164). -/
def execXTsMarker (s : State) : Host.Outcome State Fault Refusal := s.runWork Work.xTsMarker

end Sys2Proof.Machine
end

