-- ==== Sys2Proof/Machine/Flags.lean ====
section
/-! DEFINITION. Every flag-like bit the spec computes (10_state.md R33): `consumed`, the CRC and trailer
checks, and the tracker's reboot, gap and drop tests. -/

namespace Sys2Proof.Machine

namespace State

/-- Whether a byte fed in `IDLE` starts a frame (40_frame_assembler.md R71). -/
def startsFrame (b : Byte) (s : State) : Bool := b == s.cfg.startMagic

/-- The `consumed` bit FEED returns: 1 inside a frame, in `IDLE` only for the start magic
(40_frame_assembler.md R70 to R72). -/
def consumedFlag (b : Byte) (s : State) : Bool :=
  match s.asm with
  | .idle => s.startsFrame b
  | .hdr => true
  | .pay => true

/-- `CRC8(BUF[0..12)) = BUF[12]` (30_encoding.md R59, 40_frame_assembler.md R73). -/
def crcValid (s : State) : Bool := crc8 (s.header.take 12) == byteAt s.header 12

/-- A frame with a payload whose trailer position does not hold 0xC1 (40_frame_assembler.md R77). -/
def trailerMissing (s : State) : Bool := decide (s.hdrPayLen.toNat > 0) && s.trailerByte != magicEnd

/-- `ts < LAST_TS`, unsigned (41_sequence_tracker.md R91). -/
def rebooted (s : State) : Bool := decide (s.hdrTs.toNat < s.lastTs.toNat)

/-- The sequence number the header is checked against, if any: 0 after a reboot, `NEXT_SEQ` when it is
valid (41_sequence_tracker.md R90 to R92). -/
def expectedSeq (s : State) : Option (BitVec 4) :=
  if s.rebooted then some 0 else if s.seqValid then some s.nextSeq else none

/-- The gap test (41_sequence_tracker.md R92): the expectation the header's `seq` differs from. -/
def gap (s : State) : Option (BitVec 4) :=
  match s.expectedSeq with
  | none => none
  | some e => if ctlSeq s.hdrCtl ≠ e then some e else none

/-- The sender-drop test (41_sequence_tracker.md R93). -/
def senderDropped (s : State) : Bool := ctlDropped s.hdrCtl

end State

end Sys2Proof.Machine
end

