-- ==== Sys2Proof/Machine/Tracker.lean ====
section
/-! DEFINITION. The sequence-gap, sender-drop and reboot detector, run once on every validated header
(41_sequence_tracker.md). -/

namespace Sys2Proof.Machine

namespace State

/-- Raise a condition if there is one. -/
def raiseIf (k : Option Condition) (s : State) : State :=
  match k with
  | none => s
  | some k => s.raise k

/-- The gap condition of the header in `BUF` (41_sequence_tracker.md R92). -/
def gapCondition (s : State) : Option Condition :=
  s.gap.map fun e => .missingPackets (ctlSeq s.hdrCtl) e

/-- The drop condition of the header in `BUF` (41_sequence_tracker.md R93). -/
def dropCondition (s : State) : Option Condition := if s.senderDropped then some .senderDropped else none

/-- `TrackHeader` (41_sequence_tracker.md R90): the gap condition, then the drop condition, then the
registers (R94, R95).  The reboot test is inside `expectedSeq` (R91). -/
def trackHeader (s : State) : State :=
  ((s.raiseIf s.gapCondition).raiseIf s.dropCondition).setTracker true (ctlSeq s.hdrCtl + 1) s.hdrTs

end State

end Sys2Proof.Machine
end

