-- ==== Sys2Proof/Machine/Assembler.lean ====
section
/-! DEFINITION. The frame assembler: FEED, the byte classes it is made of, a whole frame as the FEED* of its
bytes, and the control byte (40_frame_assembler.md). -/

namespace Sys2Proof.Machine

/-- BaseDecode (42_base_extractor.md R105): the items, then the text. -/
def Work.baseDecode (c : Cfg) (w : Work) : Work := (w.baseItems c).baseText c

/-- The extraction of a completed frame, by the variant (40_frame_assembler.md R78). -/
def Work.decodeFrame (c : Cfg) (w : Work) : Work :=
  match c.variant with
  | .base => w.baseDecode c
  | .extended => w.extDecode c

/-- The local variables at the start of a frame's extraction (40_frame_assembler.md R78). -/
def Work.start (r : FrameRec) : Work := { Work.idle with frame := r }

namespace State

/-- The trailer check's condition (40_frame_assembler.md R77). -/
def trailerCondition (s : State) : Option Condition :=
  if s.trailerMissing then some (.missingEndMagic s.trailerByte) else none

/-- The completed frame's record (40_frame_assembler.md R78). -/
def frameRecord (s : State) : FrameRec := ((Work.start s.headerRec).decodeFrame s.cfg).frame

/-- `CompleteFrame` (40_frame_assembler.md R78). -/
def completeFrame (s : State) : State :=
  ((s.raiseIf s.trailerCondition).emit s.frameRecord).setWork Work.idle

/-- `HeaderComplete` (40_frame_assembler.md R73 to R75). -/
def headerComplete (s : State) : State :=
  if s.crcValid then
    if s.hdrPayLen = 0 then s.trackHeader.completeFrame.goIdle
    else s.trackHeader.expectPayload (13 + s.hdrPayLen.zeroExtend 17 + 1)
  else s.goIdle

/-- What follows the byte just accumulated (40_frame_assembler.md R70). -/
def afterByte (s : State) : State :=
  match s.asm with
  | .idle => s
  | .hdr => if s.bufLen = 13 then s.headerComplete else s
  | .pay => if s.bufLen = s.expLen then s.completeFrame.goIdle else s

/-- A byte inside a frame (40_frame_assembler.md R70, R72).  `BUF` has no byte at `FRAME_MAX` (20_memory.md
R42; log 12). -/
def feedInFrame (b : Byte) (s : State) : Except Fault (Bool × State) :=
  if s.bufLen.toNat < s.cfg.frameMax then .ok (true, (s.accumulate b).afterByte)
  else .error .bufferOverrun

/-- A byte fed in `IDLE` (40_frame_assembler.md R71). -/
def feedIdle (b : Byte) (s : State) : Bool × State :=
  if s.startsFrame b then (true, s.startFrame b) else (false, s)

/-- `FEED(b)`: the `consumed` bit and the state (40_frame_assembler.md R70). -/
def feedByte (b : Byte) (s : State) : Except Fault (Bool × State) :=
  match s.asm with
  | .idle => .ok (s.feedIdle b)
  | .hdr => s.feedInFrame b
  | .pay => s.feedInFrame b

/-- FEED as an outcome: its result is the `consumed` bit (40_frame_assembler.md R70). -/
def feedOutcome (b : Byte) (s : State) : Host.Outcome State Fault Refusal :=
  match s.feedByte b with
  | .ok (c, s') => .next (s'.setResult (.consumed c))
  | .error f => .fault f

/-- `FEED* b1 ... bn`: one FEED per byte, in order, with the list of their `consumed` bits
(45_host_interface.md R194). -/
def feedAll : Bytes → State → Except Fault (List Bool × State)
  | [], s => .ok ([], s)
  | b :: bs, s =>
    match s.feedByte b with
    | .error f => .error f
    | .ok (c, s') =>
      match feedAll bs s' with
      | .error f => .error f
      | .ok (cs, s'') => .ok (c :: cs, s'')

/-- FEED* as an outcome.  DESIGN CHOICE (log 15): a FRAME word runs its FEEDs in ONE step with one list of
`consumed` bits, where 45_host_interface.md R194 expands FEED* to separate steps; the separate steps are the
FEED words of the same bytes. -/
def feedAllOutcome (bs : Bytes) (s : State) : Host.Outcome State Fault Refusal :=
  match s.feedAll bs with
  | .ok (cs, s') => .next (s'.setResult (.consumedEach cs))
  | .error f => .fault f

end State

/-- The control byte's fields in the record in progress (30_encoding.md R56, 40_frame_assembler.md R78). -/
def Work.latchCtl (n : BitVec 3) (d : Bool) (q : BitVec 4) (w : Work) : Work :=
  { w with frame := { w.frame with ctl := ctlByte n d q, nparam := n, dropped := d, seq := q } }

/-- FEED (R70). -/
def execFeed (b : Byte) (s : State) : Host.Outcome State Fault Refusal := s.feedOutcome b

/-- IDLE_START_MAGIC (R71): the FEED of the instance's start magic (log 15). -/
def execIdleStartMagic (s : State) : Host.Outcome State Fault Refusal := s.feedOutcome s.cfg.startMagic

/-- IDLE_RAW (R71): the FEED of a byte that, in `IDLE`, starts no frame (log 15). -/
def execIdleRaw (b : Byte) (s : State) : Host.Outcome State Fault Refusal := s.feedOutcome b

/-- FRAME_BYTE (R72): the FEED of a byte that, in `HDR` or `PAY`, is accumulated (log 15). -/
def execFrameByte (b : Byte) (s : State) : Host.Outcome State Fault Refusal := s.feedOutcome b

/-- BASE_FRAME (30_encoding.md R57, R60): the FEED* of the frame's bytes (45_host_interface.md R194; log 15). -/
def execBaseFrame (f : BaseFrame) (s : State) : Host.Outcome State Fault Refusal := s.feedAllOutcome f.bytes

/-- EXT_FRAME (30_encoding.md R58, R60): the FEED* of the frame's bytes (45_host_interface.md R194; log 15). -/
def execExtFrame (f : ExtFrame) (s : State) : Host.Outcome State Fault Refusal := s.feedAllOutcome f.bytes

/-- CTL (30_encoding.md R56). -/
def execCtl (n : BitVec 3) (d : Bool) (q : BitVec 4) (s : State) : Host.Outcome State Fault Refusal :=
  s.runWork (Work.latchCtl n d q)

end Sys2Proof.Machine
end

