-- ==== Sys2Proof/Machine/HostOps.lean ====
section
/-! DEFINITION. The drain operations and RESET (45_host_interface.md R186, R187; 70_reset_and_hazards.md
R230). -/

namespace Sys2Proof.Machine

/-- The concatenation of the records' texts, oldest first, with nothing between them (45_host_interface.md
R186). -/
def recordsText (rs : List FrameRec) : Bytes := rs.flatMap FrameRec.text

/-- TAKE_DECODED (R186): `op[7:0]` is ignored. -/
def execTakeDecoded (_ignored : Byte) (s : State) : Host.Outcome State Fault Refusal :=
  .next (s.clearDecoded.setResult (.decoded s.decFifo (recordsText s.decFifo)))

/-- TAKE_ERRORS (R187): `op[7:0]` is ignored. -/
def execTakeErrors (_ignored : Byte) (s : State) : Host.Outcome State Fault Refusal :=
  .next (s.clearErrors.setResult (.errors s.errFifo (s.errFifo.map condText)))

/-- RESET (70_reset_and_hazards.md R230): `op[7:0]` is ignored and nothing is returned. -/
def execReset (_ignored : Byte) (s : State) : Host.Outcome State Fault Refusal :=
  .next (s.resetRegs.setResult .none)

end Sys2Proof.Machine
end

