-- ==== Sys2Proof/Machine/Dispatch.lean ====
section
/-! DEFINITION. The dispatch of the instructions to their meanings, in the table's order. -/

namespace Sys2Proof.Machine

def exec (i : Instr) (s : State) : Host.Outcome State Fault Refusal :=
  match i with
  | .feed b => Sys2Proof.Machine.execFeed b s
  | .takeDecoded ignored => Sys2Proof.Machine.execTakeDecoded ignored s
  | .takeErrors ignored => Sys2Proof.Machine.execTakeErrors ignored s
  | .reset ignored => Sys2Proof.Machine.execReset ignored s
  | .idleStartMagic => Sys2Proof.Machine.execIdleStartMagic s
  | .idleRaw b => Sys2Proof.Machine.execIdleRaw b s
  | .frameByte b => Sys2Proof.Machine.execFrameByte b s
  | .baseFrame f => Sys2Proof.Machine.execBaseFrame f s
  | .extFrame f => Sys2Proof.Machine.execExtFrame f s
  | .ctl nparam dropped q => Sys2Proof.Machine.execCtl nparam dropped q s
  | .fmtDone => Sys2Proof.Machine.execFmtDone s
  | .fmtS32 => Sys2Proof.Machine.execFmtS32 s
  | .fmtU32 => Sys2Proof.Machine.execFmtU32 s
  | .fmtHex32 => Sys2Proof.Machine.execFmtHex32 s
  | .fmtChar => Sys2Proof.Machine.execFmtChar s
  | .fmtErrcode => Sys2Proof.Machine.execFmtErrcode s
  | .fmtString => Sys2Proof.Machine.execFmtString s
  | .fmtExt64 => Sys2Proof.Machine.execFmtExt64 s
  | .fmtBad8 => Sys2Proof.Machine.execFmtBad8 s
  | .fmtBad9 => Sys2Proof.Machine.execFmtBad9 s
  | .fmtBad10 => Sys2Proof.Machine.execFmtBad10 s
  | .fmtBad11 => Sys2Proof.Machine.execFmtBad11 s
  | .fmtStruct => Sys2Proof.Machine.execFmtStruct s
  | .fmtStrbuf => Sys2Proof.Machine.execFmtStrbuf s
  | .fmtBytes => Sys2Proof.Machine.execFmtBytes s
  | .fmtWords => Sys2Proof.Machine.execFmtWords s
  | .fmt64S64 => Sys2Proof.Machine.execFmt64S64 s
  | .fmt64U64 => Sys2Proof.Machine.execFmt64U64 s
  | .fmt64Hex64 => Sys2Proof.Machine.execFmt64Hex64 s
  | .fmt64Time => Sys2Proof.Machine.execFmt64Time s
  | .fmt64Invalid c => Sys2Proof.Machine.execFmt64Invalid c s
  | .fmtExt64Last => Sys2Proof.Machine.execFmtExt64Last s
  | .errNone => Sys2Proof.Machine.execErrNone s
  | .errFileLine file line code => Sys2Proof.Machine.execErrFileLine file line code s
  | .errFileInst file inst code => Sys2Proof.Machine.execErrFileInst file inst code s
  | .errPair subcode code16 => Sys2Proof.Machine.execErrPair subcode code16 s
  | .errReserved subtype raw => Sys2Proof.Machine.execErrReserved subtype raw s
  | .errLegacy v => Sys2Proof.Machine.execErrLegacy v s
  | .litSubst => Sys2Proof.Machine.execLitSubst s
  | .litEscape c => Sys2Proof.Machine.execLitEscape c s
  | .litByte b => Sys2Proof.Machine.execLitByte b s
  | .xEscape rest => Sys2Proof.Machine.execXEscape rest s
  | .xIntFixed p conv rest => Sys2Proof.Machine.execXIntFixed p conv rest s
  | .xIntD p rest => Sys2Proof.Machine.execXIntD p rest s
  | .xIntU p rest => Sys2Proof.Machine.execXIntU p rest s
  | .xIntX p rest => Sys2Proof.Machine.execXIntX p rest s
  | .xIntXU p rest => Sys2Proof.Machine.execXIntXU p rest s
  | .xIntC p rest => Sys2Proof.Machine.execXIntC p rest s
  | .xLenZ p conv rest => Sys2Proof.Machine.execXLenZ p conv rest s
  | .xStr p rest => Sys2Proof.Machine.execXStr p rest s
  | .xStrFn p rest => Sys2Proof.Machine.execXStrFn p rest s
  | .xPtrP rest => Sys2Proof.Machine.execXPtrP rest s
  | .xPtrT rest => Sys2Proof.Machine.execXPtrT rest s
  | .xPtrH rest => Sys2Proof.Machine.execXPtrH rest s
  | .xUnprocessed token => Sys2Proof.Machine.execXUnprocessed token s
  | .xTsMarker => Sys2Proof.Machine.execXTsMarker s

end Sys2Proof.Machine
end

