-- ==== Sys2Proof/Machine/Fetch.lean ====
section
/-! DEFINITION. Fetching the next issued word and placing one: the block runs the words the host issues, in
order (10_state.md R32, 20_memory.md R49; log 2). -/

namespace Sys2Proof.Machine

namespace State

/-- The next issued word, decoded, and the state that has taken it; none when nothing is issued (log 2). -/
def fetch (s : State) : Option (Except DecodeReject Instr × State) :=
  match s.issue with
  | [] => none
  | w :: rest => some (decode s.cfg w, s.setIssue rest)

/-- Take a fetched word: run its instruction, or refuse a word that is no encoding. -/
def runFetched (i : Except DecodeReject Instr) (s : State) : Host.Outcome State Fault Refusal :=
  match i with
  | .ok i => exec i s
  | .error e => .refused (.undecodable e)

/-- The byte that holds the nibbles of an even slot and of the slot after it (30_encoding.md R62). -/
def nibbleByte (c : Cfg) (even odd : BitVec 4) : Byte :=
  match c.nibbleOrder with
  | .lowFirst => odd ++ even
  | .highFirst => even ++ odd

/-- The local variables of a Base frame with no literal, whose slots have these codes and zero words,
about to extract slot 0 (30_encoding.md R61; log 11). -/
def slotWork (c : Cfg) (code : BitVec 4) (next : Option (BitVec 4)) : Work :=
  let n := if next.isSome then 2 else 1
  let payload := nibbleByte c code (next.getD 0) :: List.replicate (4 * n) 0#8
  { Work.idle with
    frame := { FrameRec.blank .base with
      ctl := ctlByte (BitVec.ofNat 3 n) false 0, nparam := BitVec.ofNat 3 n, litLen := some 0,
      payLen := BitVec.ofNat 16 payload.length, payload := payload },
    cur := payload.length }

/-- The local variables a word of the table is run with: a format code is one slot of a frame, with zero
parameter words; every other word needs none (log 11). -/
def fetchWork (c : Cfg) (w : IssueWord) (old : Work) : Work :=
  match w with
  | .fmt4 code => slotWork c code none
  | .fmt64 code next => slotWork c code next
  | _ => old

/-- Issue a word ahead of the others. -/
def withIssued (w : IssueWord) (s : State) : State :=
  { s with issue := w :: s.issue, work := fetchWork s.cfg w s.work }

end State

end Sys2Proof.Machine
end

