-- ==== Sys2Proof/Machine/Step.lean ====
section
/-! DEFINITION. One step: the next issued word is taken and run; with nothing issued the block waits
(60_exceptions.md R217, 70_reset_and_hazards.md R232). -/

namespace Sys2Proof.Machine

/-- One step of the machine. -/
def step (s : State) : Host.Outcome State Fault Refusal :=
  match s.fetch with
  | none => .next s
  | some (i, s') => s'.runFetched i

/-- The state with a word of spec/opcode_table.json placed where `step` takes its next one (log 11). -/
def State.withFetchWord (s : State) (nbits w : Nat) : State :=
  match tableWord nbits w with
  | none => s
  | some iw => s.withIssued iw

end Sys2Proof.Machine
end

