-- ==== Sys2Proof/Safety.lean ====
section
/-! DEFINITION. What counts as a safe state and a well-formed record, in the terms the claims use. -/

namespace Sys2Proof.Machine

/-- Every address below `n` has a written byte (10_state.md R24: never read before they are written). -/
def Mem.covers (m : Mem) (n : Nat) : Prop := ∀ a, a < n → (Mem.find m a).isSome

/-- Every written byte lies in the frame buffer (20_memory.md R42). -/
def Mem.within (m : Mem) (n : Nat) : Prop := ∀ x ∈ m, x.1 < n

/-- What `ASM_STATE` says of `BUF_LEN` and `EXP_LEN` (10_state.md R24, R25, R32; 40_frame_assembler.md R71
to R79). -/
def State.position (s : State) : Prop :=
  match s.asm with
  | .idle => s.bufLen = 0
  | .hdr => 1 ≤ s.bufLen.toNat ∧ s.bufLen.toNat < headerSize
  | .pay => headerSize ≤ s.bufLen.toNat ∧ s.bufLen.toNat < s.expLen.toNat ∧
      s.expLen.toNat = headerSize + s.hdrPayLen.toNat + 1

/-- The invariant of the assembler: the buffer is canonical, lies in its address space and holds every byte
of the frame in progress, and the position is legal. -/
structure State.Inv (s : State) : Prop where
  memWf : Mem.wf s.buf
  memWithin : Mem.within s.buf s.cfg.frameMax
  memCovers : Mem.covers s.buf s.bufLen.toNat
  position : s.position

/-- What 10_state.md R29 says of the fields of a frame record of an instance. -/
structure FrameRec.Ok (v : Variant) (r : FrameRec) : Prop where
  variant : r.variant = v
  seq : r.seq = ctlSeq r.ctl
  dropped : r.dropped = ctlDropped r.ctl
  nparam : r.nparam = ctlNparam r.ctl
  payload : r.payload.length = r.payLen.toNat
  trailer : r.trailer.isSome = true ↔ 0 < r.payLen.toNat
  litLen : r.litLen.isSome = true ↔ v = .base
  strIndex : r.strIndex.isSome = true ↔ v = .extended
  items : v = .extended → r.items = []
  extItems : v = .base → r.extItems = []

/-- Every queued frame record is one of this instance's (10_state.md R29). -/
def State.recordsOk (s : State) : Prop := ∀ r ∈ s.decFifo, FrameRec.Ok s.cfg.variant r

/-- A step that does not stop. -/
def State.Runs (s : State) : Prop := ∃ t, step s = .next t

/-- The results a sequence of operation words returns, one per operation (45_host_interface.md R190). -/
def State.results : List (BitVec 10) → State → List OpResult
  | [], _ => []
  | op :: ops, s =>
    match exec (decodeHostop op) s with
    | .next t => t.result :: State.results ops t
    | .fault _ => []
    | .refused _ => []

/-- The payload bytes of the parameter word of slot `i`, first byte first (30_encoding.md R61). -/
def Work.holdsWord (w : Work) (i : Nat) (b0 b1 b2 b3 : Byte) : Prop :=
  w.frame.payload[w.litSize + w.nibbleBytes + 4 * i]? = some b0 ∧
  w.frame.payload[w.litSize + w.nibbleBytes + 4 * i + 1]? = some b1 ∧
  w.frame.payload[w.litSize + w.nibbleBytes + 4 * i + 2]? = some b2 ∧
  w.frame.payload[w.litSize + w.nibbleBytes + 4 * i + 3]? = some b3

/-- The parameter bytes `d` lie at `pc` (44_extended_extractor.md R162). -/
def Work.holdsParams (w : Work) (d : Bytes) : Prop :=
  ∃ pre post, w.frame.payload = pre ++ d ++ post ∧ pre.length = w.pc

/-- `Expand(literal, items)` of 43_base_render.md R146 as a recursion over the literal, given the items'
texts: the yardstick the extractor's scan is compared with. -/
def expandText : List Bytes → Bytes → Bytes
  | its, [] => its.flatMap fun t => ascii [' '] ++ t
  | its, [b] =>
    if b = dollar then its.headD [] ++ its.tail.flatMap fun t => ascii [' '] ++ t
    else (if b = percent then [] else [b]) ++ its.flatMap fun t => ascii [' '] ++ t
  | its, b :: c :: bs =>
    if b = dollar then its.headD [] ++ expandText its.tail (c :: bs)
    else if b = percent then c :: expandText its bs
    else b :: expandText its (c :: bs)

end Sys2Proof.Machine

namespace Sys2Proof

/-- The rows that only work on the local variables of a frame's extraction: the control byte, the format
codes and forms, the error-code sub-formats, the literal's classes and the template's conversions. -/
def Instr.isExtraction : Instr → Bool
  | .feed _ => false
  | .takeDecoded _ => false
  | .takeErrors _ => false
  | .reset _ => false
  | .idleStartMagic => false
  | .idleRaw _ => false
  | .frameByte _ => false
  | .baseFrame _ => false
  | .extFrame _ => false
  | _ => true

end Sys2Proof
end

