-- ==== Sys2Proof/Certificates/Slice0/Obligations.lean ====
section
/-! DEFINITION. The statements about the machine, for the provers.  Each says what an instruction or the
machine does; the rule of spec/ it formalises stands in its docstring and in OBLIGATIONS.json. -/

open Sys2Proof Sys2Proof.Machine

/-! ### Reset, configuration, step -/

/-- 10_state.md R35: the reset value of every register, both FIFOs empty, the configuration as constructed.
R35 leaves the bytes of `BUF` unspecified; that each is the free value of its address is the model's choice
(log 4).  `State.reset` is such a state. -/
def Obligations.ResetLeavesTheRegisterValues : Prop :=
  (∀ c : Cfg, (State.constructed c).asm = .idle ∧ (State.constructed c).bufLen = 0 ∧
    (∀ a, Mem.read (State.constructed c).buf a = Config.unwrittenByte a) ∧
    (State.constructed c).expLen = 0 ∧ (State.constructed c).seqValid = false ∧
    (State.constructed c).nextSeq = 0 ∧ (State.constructed c).lastTs = 0 ∧
    (State.constructed c).decFifo = [] ∧ (State.constructed c).errFifo = [] ∧
    (State.constructed c).cfg = c) ∧
  ∃ c : Cfg, State.reset = State.constructed c

/-- 70_reset_and_hazards.md R230: RESET writes every register and both FIFOs, keeps the configuration and
the words still to come, returns nothing, whatever its low bits; in the reset state it changes nothing.
That the bytes of `BUF` stay is the model's choice (log 4). -/
def Obligations.ResetOperationRestoresRegisters : Prop :=
  (∀ (s : State) (x : Byte),
    exec (.reset x) s = .next { State.constructed s.cfg with buf := s.buf, issue := s.issue }) ∧
  (∀ (c : Cfg) (x : Byte), exec (.reset x) (State.constructed c) = .next (State.constructed c))

/-- Log 2, 20_memory.md R49: a step takes the oldest issued word, and runs exactly the instruction it
decodes to; a word that is no encoding is refused by its reason; with nothing issued the block waits
(60_exceptions.md R217). -/
def Obligations.StepRunsTheDecodedInstruction : Prop :=
  (∀ (s : State) (w : IssueWord) (rest : List IssueWord) (i : Instr),
    s.issue = w :: rest → decode s.cfg w = .ok i → step s = exec i { s with issue := rest }) ∧
  (∀ (s : State) (w : IssueWord) (rest : List IssueWord) (e : DecodeReject),
    s.issue = w :: rest → decode s.cfg w = .error e → step s = .refused (.undecodable e)) ∧
  (∀ s : State, s.issue = [] → step s = .next s)

/-- 10_state.md R20, 70_reset_and_hazards.md R238: no operation writes the configuration, and an attempt to
change it from outside is refused. -/
def Obligations.ConfigurationIsNeverWritten : Prop :=
  (∀ (i : Instr) (s t : State), exec i s = .next t → t.cfg = s.cfg) ∧
  (∀ (s : State) (c : Cfg) (rest : List IssueWord), s.issue = .reconfigure c :: rest →
    step s = .refused (.undecodable .configurationFixed))

/-! ### Host operations -/

/-- 45_host_interface.md R186: TAKE_DECODED returns the queued records, oldest first, with their texts
joined, and empties DEC_FIFO only. -/
def Obligations.TakeDecodedReturnsAndClears : Prop :=
  ∀ (s : State) (x : Byte), decode s.cfg (.hostop (0b01#2 ++ x)) = .ok (.takeDecoded x) ∧
    exec (.takeDecoded x) s = .next
      { s with decFifo := [],
               result := .decoded s.decFifo (s.decFifo.map FrameRec.text).flatten }

/-- 45_host_interface.md R187: TAKE_ERRORS returns the queued conditions, oldest first, with one text each,
and empties ERR_FIFO only; 60_exceptions.md R201 to R203 give the texts. -/
def Obligations.TakeErrorsReturnsAndClears : Prop :=
  (∀ (s : State) (x : Byte), decode s.cfg (.hostop (0b10#2 ++ x)) = .ok (.takeErrors x) ∧
    exec (.takeErrors x) s = .next
      { s with errFifo := [], result := .errors s.errFifo (s.errFifo.map condText) }) ∧
  (∀ g e : BitVec 4, condText (.missingPackets g e) =
    ascii "(missing packet(s)); got ".toList ++ decNat g.toNat ++ ascii " expect ".toList ++
      decNat e.toNat) ∧
  condText .senderDropped = ascii "(sender dropped packet(s))".toList ∧
  (∀ a : Byte, condText (.missingEndMagic a) = Config.txtMissingEnd a)

/-! ### The frame assembler -/

/-- 40_frame_assembler.md R71: in `IDLE` the start magic is stored as `BUF[0]` and opens a frame; any other
byte returns `consumed = 0` and changes nothing. -/
def Obligations.IdleByteIsClassified : Prop :=
  ∀ (s : State), s.asm = .idle →
    (exec (.feed s.cfg.startMagic) s = .next
        { s with buf := Mem.write s.buf 0 s.cfg.startMagic, bufLen := 1, asm := .hdr,
                 result := .consumed true } ∧
      exec .idleStartMagic s = exec (.feed s.cfg.startMagic) s) ∧
    (∀ b : Byte, b ≠ s.cfg.startMagic →
      exec (.feed b) s = .next { s with result := .consumed false } ∧
      exec (.idleRaw b) s = .next { s with result := .consumed false })

/-- 40_frame_assembler.md R72: in `HDR` or `PAY` every byte value is appended at `BUF_LEN` and consumed; a
byte that does not complete the header or the frame changes nothing else.  The hypothesis that `BUF` has a
byte at `BUF_LEN` is part of the invariant. -/
def Obligations.FrameByteIsAccumulated : Prop :=
  ∀ (s : State) (b : Byte), s.asm ≠ .idle → s.bufLen.toNat < s.cfg.frameMax →
    (∃ t, exec (.feed b) s = .next t ∧ exec (.frameByte b) s = .next t ∧ t.result = .consumed true ∧
      Mem.read t.buf s.bufLen.toNat = b) ∧
    ((s.asm = .hdr → s.bufLen + 1 ≠ 13) → (s.asm = .pay → s.bufLen + 1 ≠ s.expLen) →
      exec (.feed b) s = .next
        { s with buf := Mem.write s.buf s.bufLen.toNat b, bufLen := s.bufLen + 1,
                 result := .consumed true })

/-- 20_memory.md R42: FEED writes at most one byte of the buffer, at `BUF_LEN` (at 0 when it opens a
frame), and neither the configuration nor the words still to come. -/
def Obligations.FeedFrame : Prop :=
  ∀ (s t : State) (b : Byte), exec (.feed b) s = .next t →
    (∀ a : Nat, (s.asm = .idle → b = s.cfg.startMagic → a ≠ 0) →
      (s.asm ≠ .idle → a ≠ s.bufLen.toNat) → Mem.read t.buf a = Mem.read s.buf a) ∧
    t.cfg = s.cfg ∧ t.issue = s.issue ∧
    (∃ rs, t.decFifo = s.decFifo ++ rs ∧ rs.length ≤ 1) ∧
    (∃ ks, t.errFifo = s.errFifo ++ ks ∧ ks.length ≤ 2)

/-- 40_frame_assembler.md R73: a header whose CRC fails is discarded: the block goes idle, no record, no
condition, no tracker register changes. -/
def Obligations.BadHeaderCrcDiscards : Prop :=
  ∀ (s : State) (b : Byte), s.asm = .hdr → s.bufLen = 12 →
    crc8 (Mem.readBytes s.buf 0 12) ≠ b →
    exec (.feed b) s = .next
      { s with buf := Mem.write s.buf 12 b, bufLen := 0, asm := .idle, result := .consumed true }

/-- 41_sequence_tracker.md R90 to R95: the FEED that completes a valid header raises the gap condition (the
expectation is 0 after a timestamp regression, and nothing is expected while `SEQ_VALID = 0`), then the drop
condition, and writes `NEXT_SEQ`, `SEQ_VALID` and `LAST_TS`. -/
def Obligations.ValidHeaderRunsTheTracker : Prop :=
  ∀ (s : State) (b : Byte), s.asm = .hdr → s.bufLen = 12 →
    crc8 (Mem.readBytes s.buf 0 12) = b →
    ∃ t, exec (.feed b) s = .next t ∧
      t.errFifo = s.errFifo ++
        (if (s.accumulate b).hdrTs.toNat < s.lastTs.toNat then
          (if (s.accumulate b).hdrCtl.extractLsb' 0 4 = 0 then []
            else [.missingPackets ((s.accumulate b).hdrCtl.extractLsb' 0 4) 0])
        else if s.seqValid then
          (if (s.accumulate b).hdrCtl.extractLsb' 0 4 = s.nextSeq then []
            else [.missingPackets ((s.accumulate b).hdrCtl.extractLsb' 0 4) s.nextSeq])
        else []) ++
        (if (s.accumulate b).hdrCtl.getLsbD 4 then [.senderDropped] else []) ∧
      t.nextSeq = (s.accumulate b).hdrCtl.extractLsb' 0 4 + 1 ∧ t.seqValid = true ∧
      t.lastTs = (s.accumulate b).hdrTs

/-- 41_sequence_tracker.md R99: only a FEED that completes a header with a valid CRC (or RESET) changes a
tracker register. -/
def Obligations.TrackerChangesOnlyOnValidHeaders : Prop :=
  ∀ (s t : State) (b : Byte), exec (.feed b) s = .next t →
    (s.asm = .hdr → s.bufLen = 12 → crc8 (Mem.readBytes s.buf 0 12) ≠ b) →
    t.seqValid = s.seqValid ∧ t.nextSeq = s.nextSeq ∧ t.lastTs = s.lastTs

/-- 40_frame_assembler.md R75: a valid header that declares a payload moves to `PAY` with the frame's total
length; no record is emitted. -/
def Obligations.ValidHeaderWithPayloadExpectsIt : Prop :=
  ∀ (s : State) (b : Byte), s.asm = .hdr → s.bufLen = 12 →
    crc8 (Mem.readBytes s.buf 0 12) = b → (s.accumulate b).hdrPayLen ≠ 0 →
    ∃ t, exec (.feed b) s = .next t ∧ t.asm = .pay ∧ t.bufLen = 13 ∧
      t.expLen.toNat = 13 + (s.accumulate b).hdrPayLen.toNat + 1 ∧ t.decFifo = s.decFifo ∧
      t.buf = Mem.write s.buf 12 b

/-- 40_frame_assembler.md R74: a valid header without a payload is a complete frame at once: one record, and
the block is idle. -/
def Obligations.ValidHeaderWithoutPayloadCompletes : Prop :=
  ∀ (s : State) (b : Byte), s.asm = .hdr → s.bufLen = 12 →
    crc8 (Mem.readBytes s.buf 0 12) = b → (s.accumulate b).hdrPayLen = 0 →
    ∃ t r, exec (.feed b) s = .next t ∧ t.asm = .idle ∧ t.bufLen = 0 ∧ t.expLen = s.expLen ∧
      t.decFifo = s.decFifo ++ [r] ∧ r.payLen = 0 ∧ r.payload = [] ∧ r.trailer = none ∧
      r.ctl = (s.accumulate b).hdrCtl ∧ r.ts = (s.accumulate b).hdrTs

/-- 40_frame_assembler.md R76 to R79: the byte at the trailer position completes the frame whatever its
value; another value than 0xC1 raises exactly one `MISSING_END_MAGIC` in the same step; the record is
emitted in full either way, and the tracker is not touched. -/
def Obligations.TrailerByteCompletesTheFrame : Prop :=
  ∀ (s : State) (b : Byte), s.asm = .pay → s.bufLen.toNat < s.cfg.frameMax →
    s.bufLen.toNat = 13 + (s.accumulate b).hdrPayLen.toNat → s.bufLen + 1 = s.expLen →
    (s.accumulate b).hdrPayLen ≠ 0 →
    ∃ t r, exec (.feed b) s = .next t ∧ t.asm = .idle ∧ t.bufLen = 0 ∧ t.expLen = s.expLen ∧
      t.decFifo = s.decFifo ++ [r] ∧ r.trailer = some b ∧
      r.payload = Mem.readBytes s.buf 13 (s.accumulate b).hdrPayLen.toNat ∧
      t.errFifo = s.errFifo ++ (if b = 0xC1#8 then [] else [.missingEndMagic b]) ∧
      t.seqValid = s.seqValid ∧ t.nextSeq = s.nextSeq ∧ t.lastTs = s.lastTs

/-- 42_base_extractor.md R127, 40_frame_assembler.md R84: the trailer's value changes neither the items nor
the text. -/
def Obligations.TrailerDoesNotChangeTheText : Prop :=
  ∀ (c : Cfg) (r : FrameRec) (x : Option Byte),
    ((Work.start { r with trailer := x }).decodeFrame c).frame =
      { ((Work.start r).decodeFrame c).frame with trailer := x }

/-- 30_encoding.md R57: the fields of a Base header, from the bytes of `BUF`; the timestamp and the length are
little-endian (20_memory.md R40, R41). -/
def Obligations.BaseHeaderFields : Prop :=
  ∀ (s : State) (h0 h1 h2 h3 h4 h5 h6 h7 h8 h9 h10 h11 h12 : Byte), s.cfg.variant = .base →
    Mem.readBytes s.buf 0 13 = [h0, h1, h2, h3, h4, h5, h6, h7, h8, h9, h10, h11, h12] →
    s.headerRec.ctl = h1 ∧ s.headerRec.channel = h2 ∧ s.headerRec.litLen = some h3 ∧
    s.headerRec.strIndex = none ∧ s.headerRec.ts = h9 ++ h8 ++ h7 ++ h6 ++ h5 ++ h4 ∧
    s.headerRec.payLen = h11 ++ h10 ∧
    (s.crcValid = true ↔ h12 = crc8 [h0, h1, h2, h3, h4, h5, h6, h7, h8, h9, h10, h11])

/-- 30_encoding.md R58: the fields of an Extended header. -/
def Obligations.ExtHeaderFields : Prop :=
  ∀ (s : State) (h0 h1 h2 h3 h4 h5 h6 h7 h8 h9 h10 h11 h12 : Byte), s.cfg.variant = .extended →
    Mem.readBytes s.buf 0 13 = [h0, h1, h2, h3, h4, h5, h6, h7, h8, h9, h10, h11, h12] →
    s.headerRec.ctl = h1 ∧ s.headerRec.channel = h2 ∧ s.headerRec.strIndex = some (h4 ++ h3) ∧
    s.headerRec.litLen = none ∧ s.headerRec.ts = h10 ++ h9 ++ h8 ++ h7 ++ h6 ++ h5 ∧
    s.headerRec.payLen = 0#8 ++ h11 ∧
    (s.crcValid = true ↔ h12 = crc8 [h0, h1, h2, h3, h4, h5, h6, h7, h8, h9, h10, h11])

/-- 30_encoding.md R56: the control byte's fields, both ways, and CTL puts them into the record in
progress and changes nothing else. -/
def Obligations.ControlByteFields : Prop :=
  (∀ b : Byte, decodeCtl b = .ctl (b.extractLsb' 5 3) (b.getLsbD 4) (b.extractLsb' 0 4) ∧
    ctlByte (b.extractLsb' 5 3) (b.getLsbD 4) (b.extractLsb' 0 4) = b) ∧
  (∀ (s : State) (n : BitVec 3) (d : Bool) (q : BitVec 4), exec (.ctl n d q) s = .next
    { s with work := { s.work with frame := { s.work.frame with
                ctl := ctlByte n d q, nparam := n, dropped := d, seq := q } },
             result := .none })

/-- 30_encoding.md R59: the check value of the CRC, and that a string followed by its own CRC has CRC 0. -/
def Obligations.CrcOfStringAndItsCrcIsZero : Prop :=
  crc8 (ascii "123456789".toList) = 0xF4#8 ∧ ∀ s : Bytes, crc8 (s ++ [crc8 s]) = 0#8

/-! ### Whole frames -/

/-- A whole Base frame fed to an idle Base instance with a right CRC byte (30_encoding.md R57, R60;
40_frame_assembler.md R70 to R79): every byte is consumed, exactly one record with the frame's own fields
joins DEC_FIFO, the tracker takes the header, and the conditions are the gap, the drop and the trailer's.
That a FRAME word runs all its FEEDs in one step is the model's choice (log 15). -/
def Obligations.BaseFrameIsDecodedWhole : Prop :=
  ∀ (s : State) (f : BaseFrame), s.cfg.variant = .base → s.asm = .idle → f.wf →
    f.crc = crc8 f.header →
    ∃ t r, exec (.baseFrame f) s = .next t ∧ t.asm = .idle ∧ t.bufLen = 0 ∧
      t.result = .consumedEach (List.replicate f.bytes.length true) ∧
      t.decFifo = s.decFifo ++ [r] ∧
      r = ((Work.start
        { FrameRec.blank .base with
          ctl := f.ctl, seq := f.ctl.extractLsb' 0 4, dropped := f.ctl.getLsbD 4,
          nparam := f.ctl.extractLsb' 5 3, channel := f.channel, litLen := some f.litLen, ts := f.ts,
          payLen := f.payLen, payload := f.payload, trailer := f.trailer }).baseDecode s.cfg).frame ∧
      t.seqValid = true ∧ t.nextSeq = f.ctl.extractLsb' 0 4 + 1 ∧ t.lastTs = f.ts ∧
      t.errFifo = s.errFifo ++
        (if f.ts.toNat < s.lastTs.toNat then
          (if f.ctl.extractLsb' 0 4 = 0 then [] else [.missingPackets (f.ctl.extractLsb' 0 4) 0])
        else if s.seqValid then
          (if f.ctl.extractLsb' 0 4 = s.nextSeq then []
            else [.missingPackets (f.ctl.extractLsb' 0 4) s.nextSeq])
        else []) ++
        (if f.ctl.getLsbD 4 then [.senderDropped] else []) ++
        (if f.trailer = none ∨ f.trailer = some 0xC1#8 then [] else
          [.missingEndMagic (f.trailer.getD 0)])

/-- The same for a whole Extended frame and an idle Extended instance (30_encoding.md R58, R60), in one step
(log 15). -/
def Obligations.ExtFrameIsDecodedWhole : Prop :=
  ∀ (s : State) (f : ExtFrame), s.cfg.variant = .extended → s.asm = .idle → f.wf →
    f.crc = crc8 f.header →
    ∃ t r, exec (.extFrame f) s = .next t ∧ t.asm = .idle ∧ t.bufLen = 0 ∧
      t.result = .consumedEach (List.replicate f.bytes.length true) ∧
      t.decFifo = s.decFifo ++ [r] ∧
      r = ((Work.start
        { FrameRec.blank .extended with
          ctl := f.ctl, seq := f.ctl.extractLsb' 0 4, dropped := f.ctl.getLsbD 4,
          nparam := f.ctl.extractLsb' 5 3, channel := f.channel, strIndex := some f.strIndex, ts := f.ts,
          payLen := f.payLen.zeroExtend 16, payload := f.payload,
          trailer := f.trailer }).extDecode s.cfg).frame ∧
      t.seqValid = true ∧ t.nextSeq = f.ctl.extractLsb' 0 4 + 1 ∧ t.lastTs = f.ts ∧
      t.errFifo = s.errFifo ++
        (if f.ts.toNat < s.lastTs.toNat then
          (if f.ctl.extractLsb' 0 4 = 0 then [] else [.missingPackets (f.ctl.extractLsb' 0 4) 0])
        else if s.seqValid then
          (if f.ctl.extractLsb' 0 4 = s.nextSeq then []
            else [.missingPackets (f.ctl.extractLsb' 0 4) s.nextSeq])
        else []) ++
        (if f.ctl.getLsbD 4 then [.senderDropped] else []) ++
        (if f.trailer = none ∨ f.trailer = some 0xC1#8 then [] else
          [.missingEndMagic (f.trailer.getD 0)])

/-- 60_exceptions.md R206: from a state that meets the invariant every host operation (30_encoding.md R55),
every byte class and every whole frame, of either format and with any CRC byte, completes.  That a whole
frame is one instruction of one step, and that a byte class runs outside its own state too, are the model's
choices (log 15). -/
def Obligations.HostOperationsAlwaysComplete : Prop :=
  ∀ (s : State), s.Inv →
    (∀ b : Byte, (∃ t, exec (.feed b) s = .next t) ∧ (∃ t, exec (.idleRaw b) s = .next t) ∧
      (∃ t, exec (.frameByte b) s = .next t)) ∧
    (∃ t, exec .idleStartMagic s = .next t) ∧
    (∀ f : BaseFrame, ∃ t, exec (.baseFrame f) s = .next t) ∧
    (∀ f : ExtFrame, ∃ t, exec (.extFrame f) s = .next t) ∧
    (∀ x : Byte, (∃ t, exec (.takeDecoded x) s = .next t) ∧ (∃ t, exec (.takeErrors x) s = .next t) ∧
      (∃ t, exec (.reset x) s = .next t))

/-! ### Invariants -/

/-- The invariant holds after construction, under every configuration, and so after reset. -/
def Obligations.InvariantHoldsAtReset : Prop := (∀ c : Cfg, (State.constructed c).Inv) ∧ State.reset.Inv

/-- 10_state.md R24, R25, R32: every step keeps the invariant: the buffer stays canonical and inside its
address space, every byte of the frame in progress has been written, and the position stays legal. -/
def Obligations.InvariantIsKeptByEveryStep : Prop :=
  ∀ s t : State, s.Inv → step s = .next t → t.Inv

/-- 60_exceptions.md R206, R208: nothing is fatal: from a state that meets the invariant no step faults, and
a step whose next word is an operation word answers a next state. -/
def Obligations.NoStepFaults : Prop :=
  ∀ s : State, s.Inv →
    (∀ f : Fault, step s ≠ .fault f) ∧
    (∀ (op : BitVec 10) (rest : List IssueWord), s.issue = .hostop op :: rest → s.Runs)

/-- 10_state.md R29: every step keeps DEC_FIFO's records well-formed: the control byte's fields are its bits,
the payload has the declared length, a trailer is there exactly when a payload is, and only the fields of
the instance's own variant are used. -/
def Obligations.RecordsStayWellFormed : Prop :=
  State.reset.recordsOk ∧ ∀ s t : State, s.recordsOk → step s = .next t → t.recordsOk

/-- 45_host_interface.md R190, 70_reset_and_hazards.md R231: after RESET the results of any sequence of
operations depend on the configuration alone: a block with any past returns what a newly constructed one
returns (the bytes its buffer still holds are never seen, 10_state.md R24). -/
def Obligations.ResetErasesThePast : Prop :=
  ∀ (s t : State) (x : Byte) (ops : List (BitVec 10)), exec (.reset x) s = .next t →
    State.results ops t = State.results ops (State.constructed s.cfg)

/-! ### Base extraction -/

/-- 42_base_extractor.md R111 to R114: codes 1 to 4 read the slot's little-endian word (30_encoding.md R61,
20_memory.md R40), append one item and go on at the next slot.  The last clause says what appending an item is, here and in the
statements below. -/
def Obligations.IntegerCodesReadTheirWord : Prop :=
  (∀ (s : State) (b0 b1 b2 b3 : Byte), s.work.holdsWord s.work.slot b0 b1 b2 b3 →
    exec .fmtS32 s = .next
      { s with work := s.work.pushItem (.s32 (b3 ++ b2 ++ b1 ++ b0).toInt) 1, result := .none } ∧
    exec .fmtU32 s = .next
      { s with work := s.work.pushItem (.u32 (b3 ++ b2 ++ b1 ++ b0)) 1, result := .none } ∧
    exec .fmtHex32 s = .next
      { s with work := s.work.pushItem (.hex32 (b3 ++ b2 ++ b1 ++ b0)) 1, result := .none } ∧
    exec .fmtChar s = .next { s with work := s.work.pushItem (.char b0) 1, result := .none }) ∧
  ∀ (w : Work) (it : BaseItem) (k : Nat), w.pushItem it k =
    { w with frame := { w.frame with items := w.frame.items ++ [it] }, slot := w.slot + k }

/-- 42_base_extractor.md R115, 30_encoding.md R66: code 5 unpacks its word by the top two bits; word 0 is
`NONE`; sub-format 2 by the decided layout. -/
def Obligations.ErrorCodeIsUnpacked : Prop :=
  ∀ (s : State), s.cfg.errCode2 = .decided →
    exec .fmtErrcode s = .next { s with
      work := s.work.pushItem (.err
        (if s.work.curWord = 0 then .none
        else if s.work.curWord.extractLsb' 30 2 = 0 then
          .fileLine (s.work.curWord.extractLsb' 19 11) (s.work.curWord.extractLsb' 8 11)
            (s.work.curWord.extractLsb' 0 8)
        else if s.work.curWord.extractLsb' 30 2 = 1 then
          .fileInst (s.work.curWord.extractLsb' 19 11) (s.work.curWord.extractLsb' 8 11)
            (s.work.curWord.extractLsb' 0 8)
        else if s.work.curWord.extractLsb' 30 2 = 2 then
          (if s.work.curWord.extractLsb' 28 2 = 0 then
            .pair (s.work.curWord.extractLsb' 16 12) (s.work.curWord.extractLsb' 0 16)
          else .reserved (s.work.curWord.extractLsb' 28 2) (s.work.curWord.extractLsb' 0 28))
        else .legacy (s.work.curWord.extractLsb' 0 30))) 1,
      result := .none }

/-- 42_base_extractor.md R115: each error-code row appends its unpacked code as the slot's item, and code 5
does what the row of its word does, under the decided layout and under every overridden one.  The form an
override takes is the model's choice (log 13). -/
def Obligations.ErrorRowsAppendTheirCode : Prop :=
  ∀ (s : State) (f l : BitVec 11) (e : Byte) (k : BitVec 12) (c : BitVec 16) (t : BitVec 2) (r : BitVec 28)
    (v : BitVec 30),
    exec .errNone s = .next { s with work := s.work.pushItem (.err .none) 1, result := .none } ∧
    exec (.errFileLine f l e) s =
      .next { s with work := s.work.pushItem (.err (.fileLine f l e)) 1, result := .none } ∧
    exec (.errFileInst f l e) s =
      .next { s with work := s.work.pushItem (.err (.fileInst f l e)) 1, result := .none } ∧
    exec (.errPair k c) s =
      .next { s with work := s.work.pushItem (.err (.pair k c)) 1, result := .none } ∧
    exec (.errReserved t r) s =
      .next { s with work := s.work.pushItem (.err (.reserved t r)) 1, result := .none } ∧
    exec (.errLegacy v) s =
      .next { s with work := s.work.pushItem (.err (.legacy v)) 1, result := .none } ∧
    exec .fmtErrcode s = exec (errInstr (unpackErrCode s.cfg.errCode2 s.work.curWord)) s

/-- 42_base_extractor.md R110: code 0 ends the slot loop with no item and without `bad_len`; no later slot
is extracted. -/
def Obligations.CodeZeroEndsTheLoop : Prop :=
  ∀ (s : State), decode s.cfg (.fmt4 0x0#4) = .ok .fmtDone ∧
    exec .fmtDone s = .next { s with work := { s.work with stop := true }, result := .none } ∧
    ∀ (c : Cfg) (n : Nat),
      Work.slotLoop c n { s.work with stop := true } = { s.work with stop := true }

/-- 42_base_extractor.md R120: codes 8 to 11 give `BAD_FORMAT(c)`, read no word and no trailing data, and go
on at the next slot; its text names the code. -/
def Obligations.UnassignedCodesGiveBadFormat : Prop :=
  ∀ (s : State),
    decode s.cfg (.fmt4 0x8#4) = .ok .fmtBad8 ∧ decode s.cfg (.fmt4 0x9#4) = .ok .fmtBad9 ∧
    decode s.cfg (.fmt4 0xA#4) = .ok .fmtBad10 ∧ decode s.cfg (.fmt4 0xB#4) = .ok .fmtBad11 ∧
    exec .fmtBad8 s = .next { s with work := s.work.pushItem (.badFormat 8) 1, result := .none } ∧
    exec .fmtBad9 s = .next { s with work := s.work.pushItem (.badFormat 9) 1, result := .none } ∧
    exec .fmtBad10 s = .next { s with work := s.work.pushItem (.badFormat 10) 1, result := .none } ∧
    exec .fmtBad11 s = .next { s with work := s.work.pushItem (.badFormat 11) 1, result := .none } ∧
    itemText s.cfg (.badFormat 9) = ascii "BadFormat9".toList

/-- 42_base_extractor.md R125, 30_encoding.md R65: a count (the low half of the slot's word) of 0xFFFF gives the placeholder item, consumes no trailing data, sets
no `bad_len`, and goes on at the next slot. -/
def Obligations.CountSentinelGivesPlaceholder : Prop :=
  ∀ (s : State), s.work.curWord.extractLsb' 0 16 = 0xFFFF#16 →
    exec .fmtString s = .next { s with work := s.work.pushItem .badPtr 1, result := .none } ∧
    exec .fmtStruct s = .next { s with work := s.work.pushItem .badSize 1, result := .none } ∧
    exec .fmtStrbuf s = .next { s with work := s.work.pushItem .badSize 1, result := .none } ∧
    exec .fmtBytes s = .next { s with work := s.work.pushItem .badSize 1, result := .none } ∧
    exec .fmtWords s = .next { s with work := s.work.pushItem .badSize 1, result := .none } ∧
    itemText s.cfg .badPtr = Config.txtBadPtr ∧ itemText s.cfg .badSize = Config.txtBadSize

/-- 42_base_extractor.md R107, R116, R121 to R124: another count takes exactly that many bytes at the
trailing cursor, moves the cursor past them and appends the code's item. -/
def Obligations.CountedCodesTakeTrailingData : Prop :=
  ∀ (s : State) (pre d post : Bytes), s.work.curWord.extractLsb' 0 16 ≠ 0xFFFF#16 →
    s.work.frame.payload = pre ++ d ++ post → pre.length = s.work.cur →
    d.length = (s.work.curWord.extractLsb' 0 16).toNat →
    exec .fmtString s = .next { s with
      work := { s.work with cur := s.work.cur + d.length }.pushItem (.str d) 1, result := .none } ∧
    exec .fmtStruct s = .next { s with
      work := { s.work with cur := s.work.cur + d.length }.pushItem
        (.struct (s.work.curWord.extractLsb' 16 16) d) 1, result := .none } ∧
    exec .fmtStrbuf s = .next { s with
      work := { s.work with cur := s.work.cur + d.length }.pushItem (.str d) 1, result := .none } ∧
    exec .fmtBytes s = .next { s with
      work := { s.work with cur := s.work.cur + d.length }.pushItem (.bytes d) 1, result := .none } ∧
    exec .fmtWords s = .next { s with
      work := { s.work with cur := s.work.cur + d.length }.pushItem (.words d) 1, result := .none }

/-- 42_base_extractor.md R108: a count past the end of the payload gives no item, keeps the items already
extracted, sets `bad_len` and ends the loop. -/
def Obligations.CountPastThePayloadIsBadLen : Prop :=
  ∀ (s : State), s.work.curWord.extractLsb' 0 16 ≠ 0xFFFF#16 →
    s.work.frame.payload.length < s.work.cur + (s.work.curWord.extractLsb' 0 16).toNat →
    ∀ i ∈ [Instr.fmtString, .fmtStruct, .fmtStrbuf, .fmtBytes, .fmtWords],
      exec i s = .next { s with
        work := { s.work with frame := { s.work.frame with badLen := true }, stop := true },
        result := .none }

/-- 42_base_extractor.md R118, R119: a 64-bit form takes slots `i` and `i+1`, low word first, gives its item
and goes on at slot `i+2`; an invalid form reads nothing more. -/
def Obligations.PairFormsReadTwoWords : Prop :=
  ∀ (s : State) (b0 b1 b2 b3 b4 b5 b6 b7 : Byte), s.work.holdsWord s.work.slot b0 b1 b2 b3 →
    s.work.holdsWord (s.work.slot + 1) b4 b5 b6 b7 →
    exec .fmt64S64 s = .next { s with
      work := s.work.pushItem (.s64 (b7 ++ b6 ++ b5 ++ b4 ++ b3 ++ b2 ++ b1 ++ b0).toInt) 2,
      result := .none } ∧
    exec .fmt64U64 s = .next { s with
      work := s.work.pushItem (.u64 (b7 ++ b6 ++ b5 ++ b4 ++ b3 ++ b2 ++ b1 ++ b0)) 2, result := .none } ∧
    exec .fmt64Hex64 s = .next { s with
      work := s.work.pushItem (.hex64 (b7 ++ b6 ++ b5 ++ b4 ++ b3 ++ b2 ++ b1 ++ b0)) 2,
      result := .none } ∧
    exec .fmt64Time s = .next { s with
      work := s.work.pushItem (.time (b7 ++ b6 ++ b5 ++ b4 ++ b3 ++ b2 ++ b1 ++ b0)) 2,
      result := .none } ∧
    ∀ n : BitVec 4, n ≠ 1 → n ≠ 2 → n ≠ 3 → n ≠ 4 →
      exec (.fmt64Invalid n) s = .next { s with
        work := s.work.pushItem (.badFormatL n) 2, result := .none }

/-- 42_base_extractor.md R117, 30_encoding.md R64: code 7 in the last slot gives `BAD_FORMAT(7)` and takes
one slot; in any other slot it does what the 64-bit form of the next slot's code does. -/
def Obligations.Code7IsAPrefix : Prop :=
  (∀ s : State, exec .fmtExt64Last s = .next { s with
    work := s.work.pushItem (.badFormat 7) 1, result := .none }) ∧
  (∀ s : State, s.work.slot + 1 = s.work.frame.nparam.toNat →
    exec .fmtExt64 s = exec .fmtExt64Last s) ∧
  (∀ (s : State) (i : Instr), s.work.slot + 1 ≠ s.work.frame.nparam.toNat →
    decodeFmt64 7 (some (s.work.code s.cfg (s.work.slot + 1))) = .ok i → exec .fmtExt64 s = exec i s)

/-- 30_encoding.md R62: which nibble of which byte is the code of slot `i`, under both orders. -/
def Obligations.NibbleOfASlot : Prop :=
  ∀ (c : Cfg) (w : Work) (i : Nat) (nb : Byte), w.frame.payload[w.litSize + i / 2]? = some nb →
    w.code c i =
      if (c.nibbleOrder = .lowFirst ∧ i % 2 = 0) ∨ (c.nibbleOrder = .highFirst ∧ i % 2 = 1) then
        nb.extractLsb' 0 4
      else nb.extractLsb' 4 4

/-- 42_base_extractor.md R105, R107, R109, 43_base_render.md R146, 44_extended_extractor.md R161: a Base
extraction whose fixed part fits is the slot loop from the first byte after it, and then the text; the loop
takes one turn per slot until it is stopped or has passed the last slot; an extraction starts at slot 0 and at
parameter byte 0, and looks ahead at the byte at `pc`; and each turn of the loop, of the
literal's scan and of the template's scan does what the row its code, its byte class or its token decodes to
does. -/
def Obligations.ExtractionRunsTheDecodedRows : Prop :=
  (∀ (c : Cfg) (w : Work), w.baseDecode c = (w.baseItems c).baseText c ∧
    ((w.frame.litLen.getD 0).toNat + (w.frame.nparam.toNat + 1) / 2 + 4 * w.frame.nparam.toNat ≤
        w.frame.payload.length →
      w.baseItems c = Work.slotLoop c w.frame.nparam.toNat { w with
        cur := (w.frame.litLen.getD 0).toNat + (w.frame.nparam.toNat + 1) / 2 +
          4 * w.frame.nparam.toNat })) ∧
  (∀ (c : Cfg) (n : Nat) (w : Work), Work.slotLoop c 0 w = w ∧
    (w.stop = false → w.slot < w.frame.nparam.toNat →
      Work.slotLoop c (n + 1) w = Work.slotLoop c n (w.extractSlot c)) ∧
    (w.stop = true ∨ w.frame.nparam.toNat ≤ w.slot → Work.slotLoop c n w = w)) ∧
  (∀ (r : FrameRec) (w : Work), (Work.start r).frame = r ∧ (Work.start r).slot = 0 ∧
    (Work.start r).pc = 0 ∧ (Work.start r).stop = false ∧ w.peek = w.frame.payload[w.pc]?) ∧
  (∀ (s : State), exec (decodeFmt4 (s.work.code s.cfg s.work.slot)) s =
    .next { s with work := s.work.extractSlot s.cfg, result := .none }) ∧
  (∀ (s : State) (lit : Bytes) (op : LitOp), op ∈ litOps lit →
    ∃ i, decode s.cfg (.blit op.bytes) = .ok i ∧
      exec i s = .next { s with work := s.work.litStep s.cfg op, result := .none }) ∧
  (∀ (s : State) (t : Bytes), exec (tokenInstr (parseToken t) s.work.peek) s =
    .next { s with work := s.work.convert s.cfg (parseToken t), result := .none })

/-- 42_base_extractor.md R106: a fixed part longer than the payload gives no item and `bad_len`, and the text
is the prefix, the expanded first `min(L, P)` bytes and the marker. -/
def Obligations.ShortFixedPartGivesNoItem : Prop :=
  ∀ (c : Cfg) (r : FrameRec), r.items = [] → r.text = [] →
    r.payload.length < (r.litLen.getD 0).toNat + (r.nparam.toNat + 1) / 2 + 4 * r.nparam.toNat →
    ((Work.start r).baseDecode c).frame = { r with
      badLen := true,
      text := framePrefix c r.ts r.channel ++
        expandText [] (r.payload.take (min (r.litLen.getD 0).toNat r.payload.length)) ++
        ascii "(bad len)".toList }

/-- 42_base_extractor.md R105, R119: the extraction of a frame yields at most `N` items, and it changes
neither the header fields nor the payload of its record. -/
def Obligations.BaseDecodeYieldsAtMostNItems : Prop :=
  ∀ (c : Cfg) (r : FrameRec), r.items = [] →
    ((Work.start r).baseDecode c).frame.items.length ≤ r.nparam.toNat ∧
    ((Work.start r).baseDecode c).frame = { r with
      items := ((Work.start r).baseDecode c).frame.items,
      badLen := ((Work.start r).baseDecode c).frame.badLen,
      text := ((Work.start r).baseDecode c).frame.text }

/-! ### Literal and text -/

/-- 43_base_render.md R146: what each byte class of the literal appends, and how far it moves. -/
def Obligations.LiteralClassesAppend : Prop :=
  ∀ (s : State) (b : Byte),
    exec (.litByte b) s = .next { s with
      work := { s.work with frame := { s.work.frame with text := s.work.frame.text ++ [b] },
                            litPos := s.work.litPos + 1 }, result := .none } ∧
    exec (.litEscape (some b)) s = .next { s with
      work := { s.work with frame := { s.work.frame with text := s.work.frame.text ++ [b] },
                            litPos := s.work.litPos + 2 }, result := .none } ∧
    exec (.litEscape none) s = .next { s with
      work := { s.work with litPos := s.work.litPos + 2 }, result := .none } ∧
    (∀ it, s.work.frame.items[s.work.nextItem]? = some it →
      exec .litSubst s = .next { s with
        work := { s.work with
          frame := { s.work.frame with text := s.work.frame.text ++ itemText s.cfg it },
          nextItem := s.work.nextItem + 1, litPos := s.work.litPos + 1 }, result := .none }) ∧
    (s.work.frame.items.length ≤ s.work.nextItem →
      exec .litSubst s = .next { s with
        work := { s.work with litPos := s.work.litPos + 1 }, result := .none })

/-- 43_base_render.md R146, R147, R148, R150: the text of a Base frame is the prefix, the literal with each `$`
replaced by the next item's text, the unused items each after a space, and the bad-len marker. -/
def Obligations.BaseTextIsTheExpansion : Prop :=
  ∀ (c : Cfg) (w : Work), w.frame.text = [] →
    (w.baseText c).frame.text =
      framePrefix c w.frame.ts w.frame.channel ++
        expandText (w.frame.items.map (itemText c))
          (w.frame.payload.take (min (w.frame.litLen.getD 0).toNat w.frame.payload.length)) ++
        (if w.frame.badLen then ascii "(bad len)".toList else [])

/-- 43_base_render.md R140 to R145, R149, R150: the texts of items, of a timestamp and of the default frame
prefix.  The first five clauses say what the decimal, hexadecimal and little-endian numbers in them are
(00_scope.md R9).  That channel 0x01 has the tag `t1` whatever the configuration is the model's choice
(log 6), and so is the set of types that stands for the registry (log 10). -/
def Obligations.ItemTexts : Prop :=
  (∀ n : Nat, n < 10 → decNat n = [BitVec.ofNat 8 (48 + n)]) ∧
  (∀ n : Nat, 10 ≤ n → decNat n = decNat (n / 10) ++ [BitVec.ofNat 8 (48 + n % 10)]) ∧
  (∀ v : Int, dec v = (if v < 0 then ascii "-".toList else []) ++ decNat v.natAbs) ∧
  (∀ w n : Nat, hexW 0 n = [] ∧ hexW (w + 1) n =
    hexW w (n / 16) ++ [(ascii "0123456789abcdef".toList).getD (n % 16) 0]) ∧
  (∀ b0 b1 b2 b3 : Byte, leVal [b0, b1, b2, b3] = (b3 ++ b2 ++ b1 ++ b0).toNat) ∧
  (∀ v : Nat, tsText v = decNat (v / 1000000) ++ ascii ".".toList ++
    [5, 4, 3, 2, 1, 0].map fun k => BitVec.ofNat 8 (48 + v % 1000000 / 10 ^ k % 10)) ∧
  (∀ (c : Cfg) (ts : Timestamp) (ch : Byte), c.prefixForm = .bracketed →
    framePrefix c ts ch = ascii "[".toList ++ tsText ts.toNat ++ ascii "/".toList ++ channelTag ch ++
      ascii "]".toList) ∧
  channelTag 0x01#8 = ascii "t1".toList ∧
  ∀ (c : Cfg) (i : Int) (v : Word) (d : BitVec 64) (b : Byte) (x : BitVec 30) (t : BitVec 16) (k : BitVec 4)
    (s : Bytes),
    itemText c (.s32 i) = dec i ∧ itemText c (.s64 i) = dec i ∧
    itemText c (.u32 v) = decNat v.toNat ∧ itemText c (.u64 d) = decNat d.toNat ∧
    itemText c (.hex32 v) = hexW 8 v.toNat ∧ itemText c (.hex64 d) = hexW 16 d.toNat ∧
    itemText c (.bytes s) = [0x20#8].intercalate (s.map fun y => hexW 2 y.toNat) ∧
    itemText c (.words s) = [0x20#8].intercalate
      ((List.range (s.length / 4)).map fun j => hexW 8 (leVal ((s.drop (4 * j)).take 4))) ∧
    itemText c (.char b) = [0x27#8, b, 0x27#8] ∧ itemText c (.str s) = s ∧
    itemText c (.time 0xFFFFFFFFFFFFFFFF#64) = ascii "(FOREVER)".toList ∧
    (d ≠ 0xFFFFFFFFFFFFFFFF#64 → itemText c (.time d) = tsText d.toNat) ∧
    itemText c (.err .none) = ascii "ErrNone".toList ∧
    itemText c (.err (.legacy x)) = hexW 8 x.toNat ∧
    (∀ (f l : BitVec 11) (q : BitVec 12) (h : BitVec 16) (u : BitVec 2) (r : BitVec 28),
      ∀ e ∈ [ErrCode.fileLine f l b, .fileInst f l b, .pair q h, .reserved u r],
        itemText c (.err e) = Config.errCodeText e) ∧
    itemText c .badPtr = Config.txtBadPtr ∧ itemText c .badSize = Config.txtBadSize ∧
    itemText c (.badFormat k) = ascii "BadFormat".toList ++ decNat k.toNat ∧
    itemText c (.badFormatL k) = ascii "BadFormatL".toList ++ decNat k.toNat ∧
    (t ∈ c.registry → itemText c (.struct t s) = Config.structHandler t s) ∧
    (t ∉ c.registry → itemText c (.struct t s) =
      ascii "BadStruct#".toList ++ decNat t.toNat ++ ascii "(".toList ++ decNat s.length ++
        ascii ")".toList)

/-! ### Template -/

/-- 44_extended_extractor.md R163: tokenizing loses nothing: the prefix, then `%` and each token, is the
template again; the prefix holds no `%`, a token holds one only as its first byte, and only the last token
may be empty (so that the second `%` of a pair opens a token, and does not split). -/
def Obligations.TokenizeLosesNothing : Prop :=
  ∀ t : Bytes,
    (tokenize t).1 ++ (tokenize t).2.flatMap (fun k => percent :: k) = t ∧ percent ∉ (tokenize t).1 ∧
    (∀ k ∈ (tokenize t).2, percent ∉ k.tail) ∧ ∀ k ∈ (tokenize t).2.dropLast, k ≠ []

/-- 44_extended_extractor.md R160, R164: a string index outside the table gives the placeholder text, no item
and no `bad_len`; a template that begins with the marker begins its text with the timestamp, and another one
is scanned as it stands.  R161: the scan appends the prefix and then converts the tokens in order. -/
def Obligations.TemplateLookupAndMarker : Prop :=
  ∀ (c : Cfg) (r : FrameRec) (i : BitVec 16), r.strIndex = some i → r.text = [] →
    (c.stringTable.length ≤ i.toNat →
      ((Work.start r).extDecode c).frame = { r with text := Config.txtBadIndex }) ∧
    (∀ rest, c.stringTable[i.toNat]? = some (c.tsMarker.bytes ++ rest) →
      ((Work.start r).extDecode c).frame.text =
        tsText r.ts.toNat ++ ((Work.start r).scan c rest).frame.text ∧
      (Work.start r).extDecode c = ((Work.start r).appendText (tsText r.ts.toNat)).scan c rest) ∧
    (∀ t, c.stringTable[i.toNat]? = some t → ¬ c.tsMarker.bytes <+: t →
      (Work.start r).extDecode c = (Work.start r).scan c t) ∧
    ∀ (w : Work) (t : Bytes),
      w.scan c t = (tokenize t).2.foldl (Work.scanStep c) (w.appendText (tokenize t).1) ∧
      (w.stop = false → Work.scanStep c w t = w.convert c (parseToken t))

/-- 44_extended_extractor.md R165, R179, R164: the conversions that read nothing.  The last two
clauses say what the appenders of this and the following statements do (R181: a token's rest is copied
verbatim after its text). -/
def Obligations.ConversionsThatReadNothing : Prop :=
  (∀ (s : State) (t : Bytes),
    exec (.xEscape t) s = .next { s with
      work := s.work.appendText (0x25#8 :: t), result := .none } ∧
    exec (.xUnprocessed t) s = .next { s with
      work := s.work.appendText (ascii "unprocessed format %".toList ++ t), result := .none } ∧
    exec .xTsMarker s = .next { s with
      work := s.work.appendText (tsText s.work.frame.ts.toNat), result := .none }) ∧
  (∀ (w : Work) (t : Bytes), w.appendText t =
    { w with frame := { w.frame with text := w.frame.text ++ t } }) ∧
  (∀ (w : Work) (t rest : Bytes) (it : ExtItem), w.put t rest it =
    { w with frame := { w.frame with
        text := w.frame.text ++ t ++ rest, extItems := w.frame.extItems ++ [it] } })

/-- 44_extended_extractor.md R166, R168 to R173: an integer conversion without `ll` (with `z` or without)
reads four little-endian bytes at `pc`, sign-extends them for `d` alone, and appends the `CFormat` text, the
token's rest and the item. -/
def Obligations.IntConversionsReadFourBytes : Prop :=
  ∀ (s : State) (p : IntSpec) (rest : Bytes) (b0 b1 b2 b3 : Byte), s.work.holdsParams [b0, b1, b2, b3] →
    (p.len ≠ .ll →
      exec (.xIntD p rest) s = .next { s with
        work := { s.work with pc := s.work.pc + 4 }.put
          (cformat p .dec (b3 ++ b2 ++ b1 ++ b0).toInt) rest (.int 4 true (b3 ++ b2 ++ b1 ++ b0).toInt),
        result := .none } ∧
      ∀ ic ∈ [(Instr.xIntU p rest, Conv.unsigned), (.xIntX p rest, .hexLower), (.xIntXU p rest, .hexUpper),
          (.xIntC p rest, .char)],
        exec ic.1 s = .next { s with
          work := { s.work with pc := s.work.pc + 4 }.put
            (cformat p ic.2 (b3 ++ b2 ++ b1 ++ b0).toNat) rest
            (.int 4 false (b3 ++ b2 ++ b1 ++ b0).toNat),
          result := .none }) ∧
    (p.len = .z → ∀ conv : Conv,
      exec (.xLenZ p conv rest) s = .next { s with
        work := { s.work with pc := s.work.pc + 4 }.put
          (cformat p conv (if conv = Conv.dec then (b3 ++ b2 ++ b1 ++ b0).toInt else
            ((b3 ++ b2 ++ b1 ++ b0).toNat : Int))) rest
          (.int 4 (conv == Conv.dec) (if conv = Conv.dec then (b3 ++ b2 ++ b1 ++ b0).toInt else
            ((b3 ++ b2 ++ b1 ++ b0).toNat : Int))),
        result := .none })

/-- 44_extended_extractor.md R166: with `ll` an integer conversion reads eight bytes. -/
def Obligations.IntConversionsReadEightBytes : Prop :=
  ∀ (s : State) (p : IntSpec) (rest : Bytes) (b0 b1 b2 b3 b4 b5 b6 b7 : Byte), p.len = .ll →
    s.work.holdsParams [b0, b1, b2, b3, b4, b5, b6, b7] →
    exec (.xIntD p rest) s = .next { s with
      work := { s.work with pc := s.work.pc + 8 }.put
        (cformat p .dec (b7 ++ b6 ++ b5 ++ b4 ++ b3 ++ b2 ++ b1 ++ b0).toInt) rest
        (.int 8 true (b7 ++ b6 ++ b5 ++ b4 ++ b3 ++ b2 ++ b1 ++ b0).toInt),
      result := .none } ∧
    ∀ ic ∈ [(Instr.xIntU p rest, Conv.unsigned), (.xIntX p rest, .hexLower), (.xIntXU p rest, .hexUpper),
        (.xIntC p rest, .char)],
      exec ic.1 s = .next { s with
        work := { s.work with pc := s.work.pc + 8 }.put
          (cformat p ic.2 (b7 ++ b6 ++ b5 ++ b4 ++ b3 ++ b2 ++ b1 ++ b0).toNat) rest
          (.int 8 false (b7 ++ b6 ++ b5 ++ b4 ++ b3 ++ b2 ++ b1 ++ b0).toNat),
        result := .none }

/-- 44_extended_extractor.md R168 to R172: the text of a conversion without flags, width and precision; and
a width is a minimum (the C meaning, PRESUMED, log 7). -/
def Obligations.PlainConversionTexts : Prop :=
  (∀ (len : Len) (v : Int), cformat ⟨[], [], none, len⟩ .dec v = dec v) ∧
  (∀ (len : Len) (n : Nat),
    cformat ⟨[], [], none, len⟩ .unsigned n = decNat n ∧
    cformat ⟨[], [], none, len⟩ .hexLower n = digits 16 false n ∧
    cformat ⟨[], [], none, len⟩ .hexUpper n = digits 16 true n ∧
    cformat ⟨[], [], none, len⟩ .char n = [BitVec.ofNat 8 n]) ∧
  (∀ (p : IntSpec) (conv : Conv) (v : Int), undefinedInC p conv = false →
    digitsValue p.width ≤ (cformat p conv v).length)

/-- 44_extended_extractor.md R167: a token with a `digit+ "." digit+` sub-match renders the quotient by 10^n
exactly, with `n` fraction digits, and a sign only for a negative value. -/
def Obligations.FixedPointConversion : Prop :=
  ∀ (s : State) (p : IntSpec) (conv : Conv) (rest d : Bytes) (n : Nat),
    fixedDigits p conv rest = some n → d.length = (if p.len = .ll then 8 else 4) →
    s.work.holdsParams d →
    ∃ v : Int,
      v = (if conv = Conv.dec then (BitVec.ofNat (8 * d.length) (leVal d)).toInt else (leVal d : Int)) ∧
      exec (.xIntFixed p conv rest) s = .next { s with
        work := { s.work with pc := s.work.pc + d.length }.put
          ((if v < 0 then ascii "-".toList else []) ++ decNat (v.natAbs / 10 ^ n) ++
            (if 0 < n then ascii ".".toList ++ padDigits 10 false n (v.natAbs % 10 ^ n) else []))
          rest (.fixed v n),
        result := .none }

/-- 44_extended_extractor.md R174, R175: an inline string ends at its first 0x00, and `pc` goes past it; a
0xFF sentinel is followed by a function index. -/
def Obligations.StringConversions : Prop :=
  ∀ (s : State) (p : StrSpec) (rest : Bytes),
    (∀ str : Bytes, 0#8 ∉ str → str.head? ≠ some 0xFF#8 → s.work.holdsParams (str ++ [0#8]) →
      exec (.xStr p rest) s = .next { s with
        work := { s.work with pc := s.work.pc + str.length + 1 }.put str rest (.str str),
        result := .none }) ∧
    (∀ b0 b1 b2 b3 : Byte, s.work.holdsParams [0xFF#8, b0, b1, b2, b3] →
      exec (.xStrFn p rest) s = .next { s with
        work := { s.work with pc := s.work.pc + 5 }.put
          ((s.cfg.fnTable[(b3 ++ b2 ++ b1 ++ b0).toNat]?).getD Config.txtBadFn) rest
          (.fn (b3 ++ b2 ++ b1 ++ b0)),
        result := .none })

/-- 44_extended_extractor.md R176 to R178: `pP` prints 8 hex digits, `pT` a decimal number with 0 standing
for the header timestamp, `ph` a counted hex dump; each is followed by the token's rest. -/
def Obligations.PointerConversions : Prop :=
  ∀ (s : State) (rest : Bytes),
    (∀ b0 b1 b2 b3 : Byte, s.work.holdsParams [b0, b1, b2, b3] →
      exec (.xPtrP rest) s = .next { s with
        work := { s.work with pc := s.work.pc + 4 }.put (hexW 8 (b3 ++ b2 ++ b1 ++ b0).toNat) rest
          (.ptrP (b3 ++ b2 ++ b1 ++ b0)),
        result := .none }) ∧
    (∀ d : Bytes, d.length = 8 → s.work.holdsParams d →
      exec (.xPtrT rest) s = .next { s with
        work := { s.work with pc := s.work.pc + 8 }.put
          (decNat (if leVal d = 0 then s.work.frame.ts.toNat else leVal d)) rest
          (.ptrT (BitVec.ofNat 64 (if leVal d = 0 then s.work.frame.ts.toNat else leVal d))),
        result := .none }) ∧
    (∀ (n0 n1 : Byte) (d : Bytes), d.length = (n1 ++ n0).toNat → s.work.holdsParams (n0 :: n1 :: d) →
      exec (.xPtrH rest) s = .next { s with
        work := { s.work with pc := s.work.pc + 2 + d.length }.put (hexPairs d) rest (.ptrH d),
        result := .none })

/-- 44_extended_extractor.md R180: a conversion whose read would pass the payload appends the marker, sets
`bad_len`, gives no item and no rest, and ends the scan: later tokens change nothing. -/
def Obligations.ReadPastThePayloadEndsTheScan : Prop :=
  (∀ w : Work, w.scanBadLen = { w with
    frame := { w.frame with text := w.frame.text ++ ascii "(bad len)".toList, badLen := true },
    stop := true }) ∧
  ∀ (s : State) (rest : Bytes) (p : IntSpec) (q : StrSpec) (conv : Conv),
    (s.work.frame.payload.length < s.work.pc + (if p.len = .ll then 8 else 4) →
      ∀ i ∈ [Instr.xIntD p rest, .xIntU p rest, .xIntX p rest, .xIntXU p rest, .xIntC p rest,
          .xIntFixed p conv rest],
        exec i s = .next { s with work := s.work.scanBadLen, result := .none }) ∧
    (s.work.frame.payload.length < s.work.pc + 4 →
      exec (.xLenZ p conv rest) s = .next { s with work := s.work.scanBadLen, result := .none } ∧
      exec (.xPtrP rest) s = .next { s with work := s.work.scanBadLen, result := .none }) ∧
    (s.work.frame.payload.length < s.work.pc + 5 →
      exec (.xStrFn q rest) s = .next { s with work := s.work.scanBadLen, result := .none }) ∧
    (s.work.frame.payload.length < s.work.pc + 8 →
      exec (.xPtrT rest) s = .next { s with work := s.work.scanBadLen, result := .none }) ∧
    (0#8 ∉ s.work.frame.payload.drop s.work.pc →
      exec (.xStr q rest) s = .next { s with work := s.work.scanBadLen, result := .none }) ∧
    (s.work.frame.payload.length < s.work.pc + 2 →
      exec (.xPtrH rest) s = .next { s with work := s.work.scanBadLen, result := .none }) ∧
    (∀ n0 n1 : Byte, s.work.holdsParams [n0, n1] →
      s.work.frame.payload.length < s.work.pc + 2 + (n1 ++ n0).toNat →
      exec (.xPtrH rest) s = .next { s with
        work := { s.work with pc := s.work.pc + 2 }.scanBadLen, result := .none }) ∧
    (∀ toks : List Bytes, toks.foldl (Work.scanStep s.cfg) s.work.scanBadLen = s.work.scanBadLen)

/-! ### Frames and completion of the extraction rows -/

/-- 10_state.md R33, 42_base_extractor.md R105, 60_exceptions.md R206: every extraction row completes in every
state and writes the local variables alone; a row other than CTL changes no header field, payload or trailer
of the record in progress, keeps the items and the text it has, and adds at most one item. -/
def Obligations.ExtractionRowsCompleteAndKeepTheRecord : Prop :=
  ∀ (i : Instr) (s : State), i.isExtraction = true →
    ∃ w, exec i s = .next { s with work := w, result := .none } ∧
      ((∀ n d q, i ≠ .ctl n d q) →
        ∃ (its : List BaseItem) (xs : List ExtItem) (txt : Bytes) (bad : Bool),
          its.length + xs.length ≤ 1 ∧
          w.frame = { s.work.frame with
            items := s.work.frame.items ++ its, extItems := s.work.frame.extItems ++ xs,
            text := s.work.frame.text ++ txt, badLen := s.work.frame.badLen || bad })

/-! ### Encodings -/

/-- 30_encoding.md R55: every operation word is legal and means one operation; the low byte of a word other
than FEED has no effect. -/
def Obligations.EveryOperationWordIsLegal : Prop :=
  (∀ (c : Cfg) (op : BitVec 10), decode c (.hostop op) = .ok (decodeHostop op) ∧
    encode c (decodeHostop op) = .hostop op) ∧
  (∀ (x y : Byte), decodeHostop (0#2 ++ x) = .feed x ∧ decodeHostop (1#2 ++ x) = .takeDecoded x ∧
    decodeHostop (2#2 ++ x) = .takeErrors x ∧ decodeHostop (3#2 ++ x) = .reset x ∧
    exec (.takeDecoded x) = exec (.takeDecoded y) ∧ exec (.takeErrors x) = exec (.takeErrors y) ∧
    exec (.reset x) = exec (.reset y))

/-- Words written out from the encodings of 30_encoding.md decode to the instructions they stand for. -/
def Obligations.WrittenWordsDecode : Prop :=
  decode Cfg.default (.hostop 0b0001000001#10) = .ok (.feed 0x41#8) ∧
  decode Cfg.default (.fmt4 0b0110#4) = .ok .fmtString ∧
  decode Cfg.default (.fmt64 0b0111#4 (some 0b0100#4)) = .ok .fmt64Time ∧
  decode Cfg.default (.errw 0b00000000101010000001001000000111#32) = .ok (.errFileLine 21 18 7) ∧
  decode Cfg.default (.ctl 0b00110101#8) = .ok (.ctl 1 true 5) ∧
  decode Cfg.default (.xspec [0x6C#8, 0x6C#8, 0x64#8, 0x21#8] none) =
    .ok (.xIntD ⟨[], [], none, .ll⟩ [0x21#8])

/-- Decode and encode agree on the host operations, the byte classes, the whole frames, the control byte, the
format codes and forms, the error-code words and the literal classes: decoding the encoding of a well-formed
instruction gives it back, under every configuration. -/
def Obligations.DecodeEncodeBinaryFormats : Prop :=
  ∀ (c : Cfg) (i : Instr), i.wf c = true →
    (∀ t k, encode c i ≠ .xspec t k) → decode c (encode c i) = .ok i

/-- Decode and encode agree on the template's conversions (30_encoding.md R68): the grammar of a token reads
back every flag, digit, length, conversion and rest that a well-formed conversion is written with. -/
def Obligations.DecodeEncodeTemplateTokens : Prop :=
  ∀ (c : Cfg) (i : Instr) (t : Bytes) (k : Option Byte), i.wf c = true → encode c i = .xspec t k →
    decode c (.xspec t k) = .ok i
end

