-- ==== Sys2Proof/Laws/Extract.lean ====
section
/-! SUPPORT. What the extraction operations can do to the record in progress: a Base one changes its items,
its `bad_len` and its text alone, an Extended one its extended items, its `bad_len` and its text alone, and
each operation adds at most one item. -/

namespace Sys2Proof.Machine

namespace Work

/-- One operation's effect on the record: at most one item, more text, perhaps `bad_len`. -/
def Adds (w w' : Work) : Prop :=
  ∃ (its : List BaseItem) (xs : List ExtItem) (txt : Bytes) (bad : Bool),
    its.length + xs.length ≤ 1 ∧
    w'.frame = { w.frame with
      items := w.frame.items ++ its, extItems := w.frame.extItems ++ xs,
      text := w.frame.text ++ txt, badLen := w.frame.badLen || bad }

/-- Only the items, `bad_len` and the text of the record differ. -/
def BaseKeeps (w w' : Work) : Prop :=
  w'.frame = { w.frame with
    items := w'.frame.items, badLen := w'.frame.badLen, text := w'.frame.text }

/-- Only the extended items, `bad_len` and the text of the record differ. -/
def ExtKeeps (w w' : Work) : Prop :=
  w'.frame = { w.frame with
    extItems := w'.frame.extItems, badLen := w'.frame.badLen, text := w'.frame.text }

theorem BaseKeeps.refl (w : Work) : BaseKeeps w w := rfl
theorem ExtKeeps.refl (w : Work) : ExtKeeps w w := rfl

theorem BaseKeeps.trans {u v w : Work} (h : BaseKeeps u v) (g : BaseKeeps v w) : BaseKeeps u w := by
  unfold BaseKeeps at *
  rw [g, h]

theorem ExtKeeps.trans {u v w : Work} (h : ExtKeeps u v) (g : ExtKeeps v w) : ExtKeeps u w := by
  unfold ExtKeeps at *
  rw [g, h]

theorem Adds.baseKeeps {w w' : Work} (h : Adds w w') (hx : w'.frame.extItems = w.frame.extItems) :
    BaseKeeps w w' := by
  obtain ⟨its, xs, txt, bad, _, h⟩ := h
  unfold BaseKeeps
  rw [h] at hx ⊢
  simp_all

theorem Adds.extKeeps {w w' : Work} (h : Adds w w') (hx : w'.frame.items = w.frame.items) :
    ExtKeeps w w' := by
  obtain ⟨its, xs, txt, bad, _, h⟩ := h
  unfold ExtKeeps
  rw [h] at hx ⊢
  simp_all

/-! ### The single operations -/

/-- An operation that leaves the record alone. -/
theorem Adds.of_frame_eq {w w' : Work} (h : w'.frame = w.frame) : Adds w w' :=
  ⟨[], [], [], false, by simp, by simp [h]⟩

theorem adds_pushItem (it : BaseItem) (k : Nat) (w : Work) : Adds w (w.pushItem it k) :=
  ⟨[it], [], [], false, by simp, by simp [pushItem]⟩

theorem adds_endBadLen (w : Work) : Adds w w.endBadLen :=
  ⟨[], [], [], true, by simp, by simp [endBadLen]⟩

theorem adds_appendText (s : Bytes) (w : Work) : Adds w (w.appendText s) :=
  ⟨[], [], s, false, by simp, by simp [appendText]⟩

theorem adds_put (text rest : Bytes) (it : ExtItem) (w : Work) : Adds w (w.put text rest it) :=
  ⟨[], [it], text ++ rest, false, by simp, by simp [put, appendText, pushExt]⟩

theorem adds_scanBadLen (w : Work) : Adds w w.scanBadLen :=
  ⟨[], [], badLenText, true, by simp, by simp [scanBadLen]⟩

/-- The trailing bytes taken, and the cursor after them (42_base_extractor.md R107). -/
theorem trailRead_some {w w' : Work} {n : Nat} {d : Bytes} (h : w.trailRead n = some (d, w')) :
    w.cur + n ≤ w.paySize ∧ d = (w.frame.payload.drop w.cur).take n ∧ w' = { w with cur := w.cur + n } := by
  unfold trailRead at h
  split at h
  · cases h
  · simp only [Option.some.injEq, Prod.mk.injEq] at h
    exact ⟨by omega, h.1.symm, h.2.symm⟩

/-- The parameter bytes taken, and the cursor after them (44_extended_extractor.md R162). -/
theorem readBytes_some {w w' : Work} {n : Nat} {d : Bytes} (h : w.readBytes n = some (d, w')) :
    w.pc + n ≤ w.paySize ∧ d = (w.frame.payload.drop w.pc).take n ∧ w' = { w with pc := w.pc + n } := by
  unfold readBytes at h
  split at h
  · cases h
  · simp only [Option.some.injEq, Prod.mk.injEq] at h
    exact ⟨by omega, h.1.symm, h.2.symm⟩

/-- Bytes that lie at `pc` are what a read of their length gives. -/
theorem readBytes_eq {w : Work} {pre d post : Bytes} (hp : w.frame.payload = pre ++ d ++ post)
    (hl : pre.length = w.pc) : w.readBytes d.length = some (d, { w with pc := w.pc + d.length }) := by
  unfold readBytes
  rw [if_neg]
  · simp [hp, ← hl]
  · simp [paySize, hp]
    omega

/-- A read past the payload gives nothing. -/
theorem readBytes_none {w : Work} {n : Nat} (h : w.frame.payload.length < w.pc + n) : w.readBytes n = none := by
  simp [readBytes, paySize, h]

/-- A counted item is the placeholder, `BADLEN`, or the item of the trailing bytes (42_base_extractor.md R107,
R125). -/
theorem countedItem_cases (bad : BaseItem) (mk : Bytes → BaseItem) (w : Work) :
    (w.count = 0xFFFF#16 ∧ w.countedItem bad mk = w.pushItem bad 1) ∨
    (w.count ≠ 0xFFFF#16 ∧ w.paySize < w.cur + w.count.toNat ∧ w.countedItem bad mk = w.endBadLen) ∨
    (w.count ≠ 0xFFFF#16 ∧ w.cur + w.count.toNat ≤ w.paySize ∧
      w.countedItem bad mk = { w with cur := w.cur + w.count.toNat }.pushItem
        (mk ((w.frame.payload.drop w.cur).take w.count.toNat)) 1) := by
  unfold countedItem
  by_cases h : w.count = 0xFFFF#16
  · exact .inl ⟨h, if_pos h⟩
  · rw [if_neg h]
    unfold trailRead
    by_cases hp : w.paySize < w.cur + w.count.toNat
    · exact .inr (.inl ⟨h, hp, by simp [hp]⟩)
    · exact .inr (.inr ⟨h, by omega, by simp [hp]⟩)

/-- The base operations end the loop with the record as it is, end it with `bad_len`, or push one item and
move at least one slot on. -/
def SlotEffect (w w' : Work) : Prop :=
  (w'.frame = w.frame ∧ w'.stop = true) ∨
  (w' = w.endBadLen) ∨
  ∃ it k cur, 1 ≤ k ∧ w' = { w with cur := cur }.pushItem it k

theorem slotEffect_pushItem (it : BaseItem) {k : Nat} (hk : 1 ≤ k) (w : Work) : SlotEffect w (w.pushItem it k) :=
  .inr (.inr ⟨it, k, w.cur, hk, rfl⟩)

theorem slotEffect_countedItem (bad : BaseItem) (mk : Bytes → BaseItem) (w : Work) :
    SlotEffect w (w.countedItem bad mk) := by
  rcases countedItem_cases bad mk w with ⟨_, h⟩ | ⟨_, _, h⟩ | ⟨_, _, h⟩ <;> rw [h]
  · exact slotEffect_pushItem _ (by decide) w
  · exact .inr (.inl rfl)
  · exact .inr (.inr ⟨_, _, _, by decide, rfl⟩)

theorem slotEffect_form64 (n : BitVec 4) (w : Work) : SlotEffect w (w.form64 n) := by
  unfold form64
  split <;> exact slotEffect_pushItem _ (by decide) w

theorem slotEffect_fmtExt64 (c : Cfg) (w : Work) : SlotEffect w (w.fmtExt64 c) := by
  unfold fmtExt64
  split
  · exact slotEffect_pushItem _ (by decide) w
  · exact slotEffect_form64 _ w

/-- What the extraction of one slot can do. -/
theorem slotEffect_extractSlot (c : Cfg) (w : Work) : SlotEffect w (w.extractSlot c) := by
  unfold extractSlot
  split
  · exact .inl ⟨rfl, rfl⟩
  · exact slotEffect_pushItem (.s32 _) (by decide) w
  · exact slotEffect_pushItem (.u32 _) (by decide) w
  · exact slotEffect_pushItem (.hex32 _) (by decide) w
  · exact slotEffect_pushItem (.char _) (by decide) w
  · exact slotEffect_pushItem (.err _) (by decide) w
  · exact slotEffect_countedItem .badPtr .str w
  · exact slotEffect_fmtExt64 c w
  · exact slotEffect_pushItem (.badFormat 8) (by decide) w
  · exact slotEffect_pushItem (.badFormat 9) (by decide) w
  · exact slotEffect_pushItem (.badFormat 10) (by decide) w
  · exact slotEffect_pushItem (.badFormat 11) (by decide) w
  · exact slotEffect_countedItem .badSize (.struct _) w
  · exact slotEffect_countedItem .badSize .str w
  · exact slotEffect_countedItem .badSize .bytes w
  · exact slotEffect_countedItem .badSize .words w

theorem SlotEffect.adds {w w' : Work} (h : SlotEffect w w') : Adds w w' := by
  rcases h with ⟨h, _⟩ | h | ⟨it, k, cur, _, h⟩
  · exact Adds.of_frame_eq h
  · exact h ▸ adds_endBadLen w
  · exact h ▸ adds_pushItem it k { w with cur := cur }

theorem SlotEffect.baseKeeps {w w' : Work} (h : SlotEffect w w') : BaseKeeps w w' := by
  rcases h with ⟨h, _⟩ | h | ⟨it, k, cur, _, h⟩
  · unfold BaseKeeps
    rw [h]
  · rw [h]; rfl
  · rw [h]; rfl

/-! ### The slot loop and the text of a Base frame -/

theorem baseKeeps_slotLoop (c : Cfg) (n : Nat) (w : Work) : BaseKeeps w (slotLoop c n w) := by
  induction n generalizing w with
  | zero => exact .refl w
  | succ n ih =>
    unfold slotLoop
    split
    · exact .refl w
    · exact (slotEffect_extractSlot c w).baseKeeps.trans (ih _)

theorem baseKeeps_baseItems (c : Cfg) (w : Work) : BaseKeeps w (w.baseItems c) := by
  unfold baseItems
  split
  · rfl
  · exact BaseKeeps.trans (v := { w with cur := w.fixedSize }) rfl (baseKeeps_slotLoop c _ _)

/-- One step of the literal's scan appends some text and changes nothing else of the record. -/
theorem litStep_frame (c : Cfg) (w : Work) (op : LitOp) :
    ∃ txt, (w.litStep c op).frame = { w.frame with text := w.frame.text ++ txt } := by
  cases op with
  | subst =>
    simp only [litStep, litSubst]
    split
    · exact ⟨_, rfl⟩
    · exact ⟨[], by simp [advanceLit]⟩
  | escape x => exact ⟨x.toList, rfl⟩
  | byte b => exact ⟨[b], rfl⟩

theorem litFold_frame (c : Cfg) (ops : List LitOp) (w : Work) :
    ∃ txt, (ops.foldl (litStep c) w).frame = { w.frame with text := w.frame.text ++ txt } := by
  induction ops generalizing w with
  | nil => exact ⟨[], by simp⟩
  | cons op ops ih =>
    obtain ⟨t, h⟩ := litStep_frame c w op
    obtain ⟨u, g⟩ := ih (w.litStep c op)
    exact ⟨t ++ u, by rw [List.foldl_cons, g, h]; simp⟩

theorem appendText_frame (t : Bytes) (w : Work) :
    (w.appendText t).frame = { w.frame with text := w.frame.text ++ t } := rfl

/-- Two appended texts are one. -/
theorem frame_text_trans {f g h : FrameRec} (hg : ∃ t, g = { f with text := f.text ++ t })
    (hh : ∃ t, h = { g with text := g.text ++ t }) : ∃ t, h = { f with text := f.text ++ t } := by
  obtain ⟨t, rfl⟩ := hg
  obtain ⟨u, rfl⟩ := hh
  exact ⟨t ++ u, by simp⟩

theorem expand_frame (c : Cfg) (literal : Bytes) (w : Work) :
    ∃ txt, (w.expand c literal).frame = { w.frame with text := w.frame.text ++ txt } :=
  frame_text_trans (litFold_frame c (litOps literal) { w with nextItem := 0, litPos := 0 })
    ⟨_, appendText_frame _ _⟩

/-- The text of a Base frame is appended to the record; nothing else of it changes. -/
theorem baseText_frame (c : Cfg) (w : Work) :
    ∃ txt, (w.baseText c).frame = { w.frame with text := w.frame.text ++ txt } := by
  have h := frame_text_trans ⟨_, appendText_frame (framePrefix c w.frame.ts w.frame.channel) w⟩
    (expand_frame c w.literal _)
  simp only [baseText]
  split
  · exact frame_text_trans h ⟨_, appendText_frame _ _⟩
  · exact h

theorem baseKeeps_baseDecode (c : Cfg) (w : Work) : BaseKeeps w (w.baseDecode c) := by
  refine (baseKeeps_baseItems c w).trans ?_
  obtain ⟨t, h⟩ := baseText_frame c (w.baseItems c)
  unfold BaseKeeps baseDecode
  rw [h]

/-! ### The conversions and the scan of an Extended frame -/

/-- A conversion appends text and perhaps one extended item, and moves `pc`. -/
def ConvEffect (w w' : Work) : Prop :=
  ∃ (txt : Bytes) (xs : List ExtItem) (bad : Bool), xs.length ≤ 1 ∧
    w'.frame = { w.frame with
      extItems := w.frame.extItems ++ xs, text := w.frame.text ++ txt, badLen := w.frame.badLen || bad }

theorem ConvEffect.adds {w w' : Work} : ConvEffect w w' → Adds w w' := by
  rintro ⟨txt, xs, bad, hx, h⟩
  exact ⟨[], xs, txt, bad, by simpa using hx, by simp [h]⟩

theorem ConvEffect.extKeeps {w w' : Work} : ConvEffect w w' → ExtKeeps w w' := by
  rintro ⟨txt, xs, bad, hx, h⟩
  unfold ExtKeeps
  rw [h]

theorem convEffect_appendText (s : Bytes) (w : Work) : ConvEffect w (w.appendText s) :=
  ⟨s, [], false, by simp, by simp [appendText]⟩

theorem convEffect_put (text rest : Bytes) (it : ExtItem) (p : Nat) (w : Work) :
    ConvEffect w ({ w with pc := p }.put text rest it) :=
  ⟨text ++ rest, [it], false, by simp, by simp [put, appendText, pushExt]⟩

theorem convEffect_scanBadLen (p : Nat) (w : Work) : ConvEffect w { w with pc := p }.scanBadLen :=
  ⟨badLenText, [], true, by simp, by simp [scanBadLen]⟩

theorem convEffect_xIntWith (s : IntSpec) (conv : Conv) (render : Int → Bytes) (item : Int → ExtItem)
    (rest : Bytes) (w : Work) : ConvEffect w (w.xIntWith s conv render item rest) := by
  unfold xIntWith
  split
  · exact convEffect_scanBadLen w.pc w
  · rename_i d w' h
    obtain ⟨_, _, rfl⟩ := readBytes_some h
    exact convEffect_put ..

theorem convEffect_xStr (rest : Bytes) (w : Work) : ConvEffect w (w.xStr rest) := by
  simp only [xStr]
  split
  · exact convEffect_scanBadLen w.pc w
  · exact convEffect_put ..

theorem convEffect_xStrFn (c : Cfg) (rest : Bytes) (w : Work) : ConvEffect w (w.xStrFn c rest) := by
  unfold xStrFn
  split
  · exact convEffect_scanBadLen w.pc w
  · rename_i d w' h
    obtain ⟨_, _, rfl⟩ := readBytes_some h
    exact convEffect_put ..

theorem convEffect_xPtrP (rest : Bytes) (w : Work) : ConvEffect w (w.xPtrP rest) := by
  unfold xPtrP
  split
  · exact convEffect_scanBadLen w.pc w
  · rename_i d w' h
    obtain ⟨_, _, rfl⟩ := readBytes_some h
    exact convEffect_put ..

theorem convEffect_xPtrT (rest : Bytes) (w : Work) : ConvEffect w (w.xPtrT rest) := by
  unfold xPtrT
  split
  · exact convEffect_scanBadLen w.pc w
  · rename_i d w' h
    obtain ⟨_, _, rfl⟩ := readBytes_some h
    exact convEffect_put ..

theorem convEffect_xPtrH (rest : Bytes) (w : Work) : ConvEffect w (w.xPtrH rest) := by
  unfold xPtrH
  split
  · exact convEffect_scanBadLen w.pc w
  · rename_i d w' h
    obtain ⟨_, _, rfl⟩ := readBytes_some h
    split
    · exact convEffect_scanBadLen (w.pc + 2) w
    · rename_i d' w' h
      obtain ⟨_, _, rfl⟩ := readBytes_some h
      exact convEffect_put (p := w.pc + 2 + leVal d) ..

/-- What a token's conversion can do. -/
theorem convEffect_convert (c : Cfg) (w : Work) (t : Token) : ConvEffect w (w.convert c t) := by
  unfold convert
  split
  · exact convEffect_appendText ..
  · split <;> exact convEffect_xIntWith ..
  · split
    · exact convEffect_xStrFn ..
    · exact convEffect_xStr ..
  · exact convEffect_xPtrP ..
  · exact convEffect_xPtrT ..
  · exact convEffect_xPtrH ..
  · exact convEffect_appendText ..

theorem extKeeps_scanFold (c : Cfg) (toks : List Bytes) (w : Work) :
    ExtKeeps w (toks.foldl (scanStep c) w) := by
  induction toks generalizing w with
  | nil => exact .refl w
  | cons t toks ih =>
    refine ExtKeeps.trans ?_ (ih _)
    unfold scanStep
    split
    · exact .refl w
    · exact (convEffect_convert c w _).extKeeps

/-- Once the scan has ended, further tokens change nothing. -/
theorem scanFold_stopped (c : Cfg) (toks : List Bytes) {w : Work} (h : w.stop = true) :
    toks.foldl (scanStep c) w = w := by
  induction toks with
  | nil => rfl
  | cons t toks ih => rw [List.foldl_cons, scanStep, if_pos h, ih]

theorem extKeeps_scan (c : Cfg) (t : Bytes) (w : Work) : ExtKeeps w (w.scan c t) :=
  (convEffect_appendText _ w).extKeeps.trans (extKeeps_scanFold c _ _)

theorem extKeeps_extDecode (c : Cfg) (w : Work) : ExtKeeps w (w.extDecode c) := by
  unfold extDecode
  split
  · exact (convEffect_appendText _ w).extKeeps
  · unfold scanTemplate
    split
    · exact (convEffect_appendText _ w).extKeeps.trans (extKeeps_scan c _ _)
    · exact extKeeps_scan c _ w

/-- The extraction of a frame changes the items, `bad_len` and the text of its record, and nothing else. -/
theorem decodeFrame_frame (c : Cfg) (w : Work) :
    (w.decodeFrame c).frame = { w.frame with
      items := (w.decodeFrame c).frame.items, extItems := (w.decodeFrame c).frame.extItems,
      badLen := (w.decodeFrame c).frame.badLen, text := (w.decodeFrame c).frame.text } := by
  cases h : c.variant with
  | base =>
    have hk := baseKeeps_baseDecode c w
    simp only [decodeFrame, h]
    unfold BaseKeeps at hk
    rw [hk]
  | extended =>
    have hk := extKeeps_extDecode c w
    simp only [decodeFrame, h]
    unfold ExtKeeps at hk
    rw [hk]

end Work

end Sys2Proof.Machine
end

