-- ==== Sys2Proof/Laws/Memory.lean ====
section
/-! SUPPORT. What reading and writing the frame buffer can do: a write is read back, leaves every other byte
alone and keeps the canonical form. -/

namespace Sys2Proof.Machine

theorem Mem.find_write_same (m : Mem) (a : Nat) (v : Byte) : Mem.find (Mem.write m a v) a = some v := by
  induction m with
  | nil => simp [Mem.write, Mem.find]
  | cons x m ih =>
    obtain ⟨y, b⟩ := x
    simp only [Mem.write]
    split
    · simp [Mem.find]
    · split
      · simp [Mem.find]
      · rename_i h1 h2
        simp [Mem.find, ih, Ne.symm h2]

theorem Mem.find_write_other (m : Mem) (a x : Nat) (v : Byte) (h : x ≠ a) :
    Mem.find (Mem.write m a v) x = Mem.find m x := by
  induction m with
  | nil => simp [Mem.write, Mem.find, Ne.symm h]
  | cons c m ih =>
    obtain ⟨y, b⟩ := c
    simp only [Mem.write]
    split
    · simp [Mem.find, Ne.symm h]
    · split
      · subst a
        simp [Mem.find, Ne.symm h]
      · simp [Mem.find, ih]

/-- Reading after a write, at every address. -/
theorem Mem.find_write (m : Mem) (a x : Nat) (v : Byte) :
    Mem.find (Mem.write m a v) x = if x = a then some v else Mem.find m x := by
  split
  · subst a
    exact Mem.find_write_same m x v
  · exact Mem.find_write_other m a x v ‹_›

theorem Mem.read_write (m : Mem) (a x : Nat) (v : Byte) :
    Mem.read (Mem.write m a v) x = if x = a then v else Mem.read m x := by
  rw [Mem.read, Mem.find_write]
  split <;> rfl

/-- Every cell of the memory after a write is the written cell or a cell of the memory before it. -/
theorem Mem.mem_write {m : Mem} {a : Nat} {v : Byte} {c : Host.Cell} (h : c ∈ Mem.write m a v) :
    c = (a, v) ∨ c ∈ m := by
  induction m with
  | nil => simpa [Mem.write] using h
  | cons x m ih =>
    obtain ⟨y, b⟩ := x
    simp only [Mem.write] at h
    split at h
    · simpa using h
    · split at h
      · rcases List.mem_cons.1 h with h | h
        · exact .inl h
        · exact .inr (List.mem_cons_of_mem _ h)
      · rcases List.mem_cons.1 h with h | h
        · exact .inr (h ▸ List.mem_cons_self)
        · exact (ih h).imp id (List.mem_cons_of_mem _)

/-- A write keeps the canonical form. -/
theorem Mem.write_wf {m : Mem} (h : Mem.wf m) (a : Nat) (v : Byte) : Mem.wf (Mem.write m a v) := by
  induction m with
  | nil => simp [Mem.write]
  | cons x m ih =>
    obtain ⟨y, b⟩ := x
    obtain ⟨hx, hm⟩ := List.pairwise_cons.1 h
    simp only [Mem.write]
    split
    · rename_i hlt
      refine List.pairwise_cons.2 ⟨fun c hc => ?_, h⟩
      rcases List.mem_cons.1 hc with rfl | hc
      · exact hlt
      · exact Nat.lt_trans hlt (hx c hc)
    · split
      · subst a
        exact List.pairwise_cons.2 ⟨hx, hm⟩
      · refine List.pairwise_cons.2 ⟨fun c hc => ?_, ih hm⟩
        rcases Mem.mem_write hc with rfl | hc
        · show y < a
          omega
        · exact hx c hc

/-- A write inside the buffer stays inside it. -/
theorem Mem.write_within {m : Mem} {n a : Nat} {v : Byte} (h : Mem.within m n) (ha : a < n) :
    Mem.within (Mem.write m a v) n := by
  intro c hc
  rcases Mem.mem_write hc with rfl | hc
  · exact ha
  · exact h c hc

/-- A write at the end of the covered bytes covers one more. -/
theorem Mem.write_covers {m : Mem} {n : Nat} (v : Byte) (h : Mem.covers m n) :
    Mem.covers (Mem.write m n v) (n + 1) := by
  intro a ha
  rw [Mem.find_write]
  split
  · rfl
  · exact h a (by omega)

@[simp] theorem Mem.readBytes_length (m : Mem) (a n : Nat) : (Mem.readBytes m a n).length = n := by
  simp [Mem.readBytes]

theorem Mem.readBytes_getElem? (m : Mem) (a n i : Nat) (h : i < n) :
    (Mem.readBytes m a n)[i]? = some (Mem.read m (a + i)) := by
  simp [Mem.readBytes, h]

/-- Two memories that read the same in a range give the same bytes. -/
theorem Mem.readBytes_congr {m m' : Mem} {a n : Nat} (h : ∀ i, i < n → Mem.read m (a + i) = Mem.read m' (a + i)) :
    Mem.readBytes m a n = Mem.readBytes m' a n :=
  List.map_congr_left fun i hi => h i (List.mem_range.1 hi)

/-- A newly constructed instance has nothing in its buffer, which is canonical. -/
theorem State.constructed_buf_wf (c : Cfg) : Mem.wf (State.constructed c).buf := List.Pairwise.nil

/-- The buffer after reset is canonical. -/
theorem State.reset_buf_wf : Mem.wf State.reset.buf := List.Pairwise.nil

/-- A write outside a range leaves its bytes alone. -/
theorem Mem.readBytes_write (m : Mem) (a n x : Nat) (v : Byte) (h : x < a ∨ a + n ≤ x) :
    Mem.readBytes (Mem.write m x v) a n = Mem.readBytes m a n :=
  Mem.readBytes_congr fun i hi => by
    rw [Mem.read_write, if_neg]
    omega

end Sys2Proof.Machine
end

