-- ==== Sys2Proof/Laws/State.lean ====
section
/-! SUPPORT. One lemma per field per update of the state and of the local variables, true by rfl, so that no
proof unfolds a record update. -/

namespace Sys2Proof.Machine

namespace State


/-! `setResult` -/
@[simp] theorem setResult_cfg (r : OpResult) (s : State) : (s.setResult r).cfg = s.cfg := rfl
@[simp] theorem setResult_asm (r : OpResult) (s : State) : (s.setResult r).asm = s.asm := rfl
@[simp] theorem setResult_buf (r : OpResult) (s : State) : (s.setResult r).buf = s.buf := rfl
@[simp] theorem setResult_bufLen (r : OpResult) (s : State) : (s.setResult r).bufLen = s.bufLen := rfl
@[simp] theorem setResult_expLen (r : OpResult) (s : State) : (s.setResult r).expLen = s.expLen := rfl
@[simp] theorem setResult_seqValid (r : OpResult) (s : State) : (s.setResult r).seqValid = s.seqValid := rfl
@[simp] theorem setResult_nextSeq (r : OpResult) (s : State) : (s.setResult r).nextSeq = s.nextSeq := rfl
@[simp] theorem setResult_lastTs (r : OpResult) (s : State) : (s.setResult r).lastTs = s.lastTs := rfl
@[simp] theorem setResult_decFifo (r : OpResult) (s : State) : (s.setResult r).decFifo = s.decFifo := rfl
@[simp] theorem setResult_errFifo (r : OpResult) (s : State) : (s.setResult r).errFifo = s.errFifo := rfl
@[simp] theorem setResult_work (r : OpResult) (s : State) : (s.setResult r).work = s.work := rfl
@[simp] theorem setResult_result (r : OpResult) (s : State) : (s.setResult r).result = r := rfl
@[simp] theorem setResult_issue (r : OpResult) (s : State) : (s.setResult r).issue = s.issue := rfl

/-! `setWork` -/
@[simp] theorem setWork_cfg (w : Work) (s : State) : (s.setWork w).cfg = s.cfg := rfl
@[simp] theorem setWork_asm (w : Work) (s : State) : (s.setWork w).asm = s.asm := rfl
@[simp] theorem setWork_buf (w : Work) (s : State) : (s.setWork w).buf = s.buf := rfl
@[simp] theorem setWork_bufLen (w : Work) (s : State) : (s.setWork w).bufLen = s.bufLen := rfl
@[simp] theorem setWork_expLen (w : Work) (s : State) : (s.setWork w).expLen = s.expLen := rfl
@[simp] theorem setWork_seqValid (w : Work) (s : State) : (s.setWork w).seqValid = s.seqValid := rfl
@[simp] theorem setWork_nextSeq (w : Work) (s : State) : (s.setWork w).nextSeq = s.nextSeq := rfl
@[simp] theorem setWork_lastTs (w : Work) (s : State) : (s.setWork w).lastTs = s.lastTs := rfl
@[simp] theorem setWork_decFifo (w : Work) (s : State) : (s.setWork w).decFifo = s.decFifo := rfl
@[simp] theorem setWork_errFifo (w : Work) (s : State) : (s.setWork w).errFifo = s.errFifo := rfl
@[simp] theorem setWork_work (w : Work) (s : State) : (s.setWork w).work = w := rfl
@[simp] theorem setWork_result (w : Work) (s : State) : (s.setWork w).result = s.result := rfl
@[simp] theorem setWork_issue (w : Work) (s : State) : (s.setWork w).issue = s.issue := rfl

/-! `setIssue` -/
@[simp] theorem setIssue_cfg (q : List IssueWord) (s : State) : (s.setIssue q).cfg = s.cfg := rfl
@[simp] theorem setIssue_asm (q : List IssueWord) (s : State) : (s.setIssue q).asm = s.asm := rfl
@[simp] theorem setIssue_buf (q : List IssueWord) (s : State) : (s.setIssue q).buf = s.buf := rfl
@[simp] theorem setIssue_bufLen (q : List IssueWord) (s : State) : (s.setIssue q).bufLen = s.bufLen := rfl
@[simp] theorem setIssue_expLen (q : List IssueWord) (s : State) : (s.setIssue q).expLen = s.expLen := rfl
@[simp] theorem setIssue_seqValid (q : List IssueWord) (s : State) : (s.setIssue q).seqValid = s.seqValid := rfl
@[simp] theorem setIssue_nextSeq (q : List IssueWord) (s : State) : (s.setIssue q).nextSeq = s.nextSeq := rfl
@[simp] theorem setIssue_lastTs (q : List IssueWord) (s : State) : (s.setIssue q).lastTs = s.lastTs := rfl
@[simp] theorem setIssue_decFifo (q : List IssueWord) (s : State) : (s.setIssue q).decFifo = s.decFifo := rfl
@[simp] theorem setIssue_errFifo (q : List IssueWord) (s : State) : (s.setIssue q).errFifo = s.errFifo := rfl
@[simp] theorem setIssue_work (q : List IssueWord) (s : State) : (s.setIssue q).work = s.work := rfl
@[simp] theorem setIssue_result (q : List IssueWord) (s : State) : (s.setIssue q).result = s.result := rfl
@[simp] theorem setIssue_issue (q : List IssueWord) (s : State) : (s.setIssue q).issue = q := rfl

/-! `raise` -/
@[simp] theorem raise_cfg (k : Condition) (s : State) : (s.raise k).cfg = s.cfg := rfl
@[simp] theorem raise_asm (k : Condition) (s : State) : (s.raise k).asm = s.asm := rfl
@[simp] theorem raise_buf (k : Condition) (s : State) : (s.raise k).buf = s.buf := rfl
@[simp] theorem raise_bufLen (k : Condition) (s : State) : (s.raise k).bufLen = s.bufLen := rfl
@[simp] theorem raise_expLen (k : Condition) (s : State) : (s.raise k).expLen = s.expLen := rfl
@[simp] theorem raise_seqValid (k : Condition) (s : State) : (s.raise k).seqValid = s.seqValid := rfl
@[simp] theorem raise_nextSeq (k : Condition) (s : State) : (s.raise k).nextSeq = s.nextSeq := rfl
@[simp] theorem raise_lastTs (k : Condition) (s : State) : (s.raise k).lastTs = s.lastTs := rfl
@[simp] theorem raise_decFifo (k : Condition) (s : State) : (s.raise k).decFifo = s.decFifo := rfl
@[simp] theorem raise_errFifo (k : Condition) (s : State) : (s.raise k).errFifo = s.errFifo ++ [k] := rfl
@[simp] theorem raise_work (k : Condition) (s : State) : (s.raise k).work = s.work := rfl
@[simp] theorem raise_result (k : Condition) (s : State) : (s.raise k).result = s.result := rfl
@[simp] theorem raise_issue (k : Condition) (s : State) : (s.raise k).issue = s.issue := rfl

/-! `emit` -/
@[simp] theorem emit_cfg (r : FrameRec) (s : State) : (s.emit r).cfg = s.cfg := rfl
@[simp] theorem emit_asm (r : FrameRec) (s : State) : (s.emit r).asm = s.asm := rfl
@[simp] theorem emit_buf (r : FrameRec) (s : State) : (s.emit r).buf = s.buf := rfl
@[simp] theorem emit_bufLen (r : FrameRec) (s : State) : (s.emit r).bufLen = s.bufLen := rfl
@[simp] theorem emit_expLen (r : FrameRec) (s : State) : (s.emit r).expLen = s.expLen := rfl
@[simp] theorem emit_seqValid (r : FrameRec) (s : State) : (s.emit r).seqValid = s.seqValid := rfl
@[simp] theorem emit_nextSeq (r : FrameRec) (s : State) : (s.emit r).nextSeq = s.nextSeq := rfl
@[simp] theorem emit_lastTs (r : FrameRec) (s : State) : (s.emit r).lastTs = s.lastTs := rfl
@[simp] theorem emit_decFifo (r : FrameRec) (s : State) : (s.emit r).decFifo = s.decFifo ++ [r] := rfl
@[simp] theorem emit_errFifo (r : FrameRec) (s : State) : (s.emit r).errFifo = s.errFifo := rfl
@[simp] theorem emit_work (r : FrameRec) (s : State) : (s.emit r).work = s.work := rfl
@[simp] theorem emit_result (r : FrameRec) (s : State) : (s.emit r).result = s.result := rfl
@[simp] theorem emit_issue (r : FrameRec) (s : State) : (s.emit r).issue = s.issue := rfl

/-! `accumulate` -/
@[simp] theorem accumulate_cfg (b : Byte) (s : State) : (s.accumulate b).cfg = s.cfg := rfl
@[simp] theorem accumulate_asm (b : Byte) (s : State) : (s.accumulate b).asm = s.asm := rfl
@[simp] theorem accumulate_buf (b : Byte) (s : State) : (s.accumulate b).buf = Mem.write s.buf s.bufLen.toNat b := rfl
@[simp] theorem accumulate_bufLen (b : Byte) (s : State) : (s.accumulate b).bufLen = s.bufLen + 1 := rfl
@[simp] theorem accumulate_expLen (b : Byte) (s : State) : (s.accumulate b).expLen = s.expLen := rfl
@[simp] theorem accumulate_seqValid (b : Byte) (s : State) : (s.accumulate b).seqValid = s.seqValid := rfl
@[simp] theorem accumulate_nextSeq (b : Byte) (s : State) : (s.accumulate b).nextSeq = s.nextSeq := rfl
@[simp] theorem accumulate_lastTs (b : Byte) (s : State) : (s.accumulate b).lastTs = s.lastTs := rfl
@[simp] theorem accumulate_decFifo (b : Byte) (s : State) : (s.accumulate b).decFifo = s.decFifo := rfl
@[simp] theorem accumulate_errFifo (b : Byte) (s : State) : (s.accumulate b).errFifo = s.errFifo := rfl
@[simp] theorem accumulate_work (b : Byte) (s : State) : (s.accumulate b).work = s.work := rfl
@[simp] theorem accumulate_result (b : Byte) (s : State) : (s.accumulate b).result = s.result := rfl
@[simp] theorem accumulate_issue (b : Byte) (s : State) : (s.accumulate b).issue = s.issue := rfl

/-! `startFrame` -/
@[simp] theorem startFrame_cfg (b : Byte) (s : State) : (s.startFrame b).cfg = s.cfg := rfl
@[simp] theorem startFrame_asm (b : Byte) (s : State) : (s.startFrame b).asm = .hdr := rfl
@[simp] theorem startFrame_buf (b : Byte) (s : State) : (s.startFrame b).buf = Mem.write s.buf 0 b := rfl
@[simp] theorem startFrame_bufLen (b : Byte) (s : State) : (s.startFrame b).bufLen = 1 := rfl
@[simp] theorem startFrame_expLen (b : Byte) (s : State) : (s.startFrame b).expLen = s.expLen := rfl
@[simp] theorem startFrame_seqValid (b : Byte) (s : State) : (s.startFrame b).seqValid = s.seqValid := rfl
@[simp] theorem startFrame_nextSeq (b : Byte) (s : State) : (s.startFrame b).nextSeq = s.nextSeq := rfl
@[simp] theorem startFrame_lastTs (b : Byte) (s : State) : (s.startFrame b).lastTs = s.lastTs := rfl
@[simp] theorem startFrame_decFifo (b : Byte) (s : State) : (s.startFrame b).decFifo = s.decFifo := rfl
@[simp] theorem startFrame_errFifo (b : Byte) (s : State) : (s.startFrame b).errFifo = s.errFifo := rfl
@[simp] theorem startFrame_work (b : Byte) (s : State) : (s.startFrame b).work = s.work := rfl
@[simp] theorem startFrame_result (b : Byte) (s : State) : (s.startFrame b).result = s.result := rfl
@[simp] theorem startFrame_issue (b : Byte) (s : State) : (s.startFrame b).issue = s.issue := rfl

/-! `goIdle` -/
@[simp] theorem goIdle_cfg (s : State) : (s.goIdle).cfg = s.cfg := rfl
@[simp] theorem goIdle_asm (s : State) : (s.goIdle).asm = .idle := rfl
@[simp] theorem goIdle_buf (s : State) : (s.goIdle).buf = s.buf := rfl
@[simp] theorem goIdle_bufLen (s : State) : (s.goIdle).bufLen = 0 := rfl
@[simp] theorem goIdle_expLen (s : State) : (s.goIdle).expLen = s.expLen := rfl
@[simp] theorem goIdle_seqValid (s : State) : (s.goIdle).seqValid = s.seqValid := rfl
@[simp] theorem goIdle_nextSeq (s : State) : (s.goIdle).nextSeq = s.nextSeq := rfl
@[simp] theorem goIdle_lastTs (s : State) : (s.goIdle).lastTs = s.lastTs := rfl
@[simp] theorem goIdle_decFifo (s : State) : (s.goIdle).decFifo = s.decFifo := rfl
@[simp] theorem goIdle_errFifo (s : State) : (s.goIdle).errFifo = s.errFifo := rfl
@[simp] theorem goIdle_work (s : State) : (s.goIdle).work = s.work := rfl
@[simp] theorem goIdle_result (s : State) : (s.goIdle).result = s.result := rfl
@[simp] theorem goIdle_issue (s : State) : (s.goIdle).issue = s.issue := rfl

/-! `expectPayload` -/
@[simp] theorem expectPayload_cfg (n : BitVec 17) (s : State) : (s.expectPayload n).cfg = s.cfg := rfl
@[simp] theorem expectPayload_asm (n : BitVec 17) (s : State) : (s.expectPayload n).asm = .pay := rfl
@[simp] theorem expectPayload_buf (n : BitVec 17) (s : State) : (s.expectPayload n).buf = s.buf := rfl
@[simp] theorem expectPayload_bufLen (n : BitVec 17) (s : State) : (s.expectPayload n).bufLen = s.bufLen := rfl
@[simp] theorem expectPayload_expLen (n : BitVec 17) (s : State) : (s.expectPayload n).expLen = n := rfl
@[simp] theorem expectPayload_seqValid (n : BitVec 17) (s : State) : (s.expectPayload n).seqValid = s.seqValid := rfl
@[simp] theorem expectPayload_nextSeq (n : BitVec 17) (s : State) : (s.expectPayload n).nextSeq = s.nextSeq := rfl
@[simp] theorem expectPayload_lastTs (n : BitVec 17) (s : State) : (s.expectPayload n).lastTs = s.lastTs := rfl
@[simp] theorem expectPayload_decFifo (n : BitVec 17) (s : State) : (s.expectPayload n).decFifo = s.decFifo := rfl
@[simp] theorem expectPayload_errFifo (n : BitVec 17) (s : State) : (s.expectPayload n).errFifo = s.errFifo := rfl
@[simp] theorem expectPayload_work (n : BitVec 17) (s : State) : (s.expectPayload n).work = s.work := rfl
@[simp] theorem expectPayload_result (n : BitVec 17) (s : State) : (s.expectPayload n).result = s.result := rfl
@[simp] theorem expectPayload_issue (n : BitVec 17) (s : State) : (s.expectPayload n).issue = s.issue := rfl

/-! `setTracker` -/
@[simp] theorem setTracker_cfg (v : Bool) (n : BitVec 4) (ts : Timestamp) (s : State) : (s.setTracker v n ts).cfg = s.cfg := rfl
@[simp] theorem setTracker_asm (v : Bool) (n : BitVec 4) (ts : Timestamp) (s : State) : (s.setTracker v n ts).asm = s.asm := rfl
@[simp] theorem setTracker_buf (v : Bool) (n : BitVec 4) (ts : Timestamp) (s : State) : (s.setTracker v n ts).buf = s.buf := rfl
@[simp] theorem setTracker_bufLen (v : Bool) (n : BitVec 4) (ts : Timestamp) (s : State) : (s.setTracker v n ts).bufLen = s.bufLen := rfl
@[simp] theorem setTracker_expLen (v : Bool) (n : BitVec 4) (ts : Timestamp) (s : State) : (s.setTracker v n ts).expLen = s.expLen := rfl
@[simp] theorem setTracker_seqValid (v : Bool) (n : BitVec 4) (ts : Timestamp) (s : State) : (s.setTracker v n ts).seqValid = v := rfl
@[simp] theorem setTracker_nextSeq (v : Bool) (n : BitVec 4) (ts : Timestamp) (s : State) : (s.setTracker v n ts).nextSeq = n := rfl
@[simp] theorem setTracker_lastTs (v : Bool) (n : BitVec 4) (ts : Timestamp) (s : State) : (s.setTracker v n ts).lastTs = ts := rfl
@[simp] theorem setTracker_decFifo (v : Bool) (n : BitVec 4) (ts : Timestamp) (s : State) : (s.setTracker v n ts).decFifo = s.decFifo := rfl
@[simp] theorem setTracker_errFifo (v : Bool) (n : BitVec 4) (ts : Timestamp) (s : State) : (s.setTracker v n ts).errFifo = s.errFifo := rfl
@[simp] theorem setTracker_work (v : Bool) (n : BitVec 4) (ts : Timestamp) (s : State) : (s.setTracker v n ts).work = s.work := rfl
@[simp] theorem setTracker_result (v : Bool) (n : BitVec 4) (ts : Timestamp) (s : State) : (s.setTracker v n ts).result = s.result := rfl
@[simp] theorem setTracker_issue (v : Bool) (n : BitVec 4) (ts : Timestamp) (s : State) : (s.setTracker v n ts).issue = s.issue := rfl

/-! `clearDecoded` -/
@[simp] theorem clearDecoded_cfg (s : State) : (s.clearDecoded).cfg = s.cfg := rfl
@[simp] theorem clearDecoded_asm (s : State) : (s.clearDecoded).asm = s.asm := rfl
@[simp] theorem clearDecoded_buf (s : State) : (s.clearDecoded).buf = s.buf := rfl
@[simp] theorem clearDecoded_bufLen (s : State) : (s.clearDecoded).bufLen = s.bufLen := rfl
@[simp] theorem clearDecoded_expLen (s : State) : (s.clearDecoded).expLen = s.expLen := rfl
@[simp] theorem clearDecoded_seqValid (s : State) : (s.clearDecoded).seqValid = s.seqValid := rfl
@[simp] theorem clearDecoded_nextSeq (s : State) : (s.clearDecoded).nextSeq = s.nextSeq := rfl
@[simp] theorem clearDecoded_lastTs (s : State) : (s.clearDecoded).lastTs = s.lastTs := rfl
@[simp] theorem clearDecoded_decFifo (s : State) : (s.clearDecoded).decFifo = [] := rfl
@[simp] theorem clearDecoded_errFifo (s : State) : (s.clearDecoded).errFifo = s.errFifo := rfl
@[simp] theorem clearDecoded_work (s : State) : (s.clearDecoded).work = s.work := rfl
@[simp] theorem clearDecoded_result (s : State) : (s.clearDecoded).result = s.result := rfl
@[simp] theorem clearDecoded_issue (s : State) : (s.clearDecoded).issue = s.issue := rfl

/-! `clearErrors` -/
@[simp] theorem clearErrors_cfg (s : State) : (s.clearErrors).cfg = s.cfg := rfl
@[simp] theorem clearErrors_asm (s : State) : (s.clearErrors).asm = s.asm := rfl
@[simp] theorem clearErrors_buf (s : State) : (s.clearErrors).buf = s.buf := rfl
@[simp] theorem clearErrors_bufLen (s : State) : (s.clearErrors).bufLen = s.bufLen := rfl
@[simp] theorem clearErrors_expLen (s : State) : (s.clearErrors).expLen = s.expLen := rfl
@[simp] theorem clearErrors_seqValid (s : State) : (s.clearErrors).seqValid = s.seqValid := rfl
@[simp] theorem clearErrors_nextSeq (s : State) : (s.clearErrors).nextSeq = s.nextSeq := rfl
@[simp] theorem clearErrors_lastTs (s : State) : (s.clearErrors).lastTs = s.lastTs := rfl
@[simp] theorem clearErrors_decFifo (s : State) : (s.clearErrors).decFifo = s.decFifo := rfl
@[simp] theorem clearErrors_errFifo (s : State) : (s.clearErrors).errFifo = [] := rfl
@[simp] theorem clearErrors_work (s : State) : (s.clearErrors).work = s.work := rfl
@[simp] theorem clearErrors_result (s : State) : (s.clearErrors).result = s.result := rfl
@[simp] theorem clearErrors_issue (s : State) : (s.clearErrors).issue = s.issue := rfl

/-! `resetRegs` -/
@[simp] theorem resetRegs_cfg (s : State) : (s.resetRegs).cfg = s.cfg := rfl
@[simp] theorem resetRegs_asm (s : State) : (s.resetRegs).asm = .idle := rfl
@[simp] theorem resetRegs_buf (s : State) : (s.resetRegs).buf = s.buf := rfl
@[simp] theorem resetRegs_bufLen (s : State) : (s.resetRegs).bufLen = 0 := rfl
@[simp] theorem resetRegs_expLen (s : State) : (s.resetRegs).expLen = 0 := rfl
@[simp] theorem resetRegs_seqValid (s : State) : (s.resetRegs).seqValid = false := rfl
@[simp] theorem resetRegs_nextSeq (s : State) : (s.resetRegs).nextSeq = 0 := rfl
@[simp] theorem resetRegs_lastTs (s : State) : (s.resetRegs).lastTs = 0 := rfl
@[simp] theorem resetRegs_decFifo (s : State) : (s.resetRegs).decFifo = [] := rfl
@[simp] theorem resetRegs_errFifo (s : State) : (s.resetRegs).errFifo = [] := rfl
@[simp] theorem resetRegs_work (s : State) : (s.resetRegs).work = Work.idle := rfl
@[simp] theorem resetRegs_result (s : State) : (s.resetRegs).result = s.result := rfl
@[simp] theorem resetRegs_issue (s : State) : (s.resetRegs).issue = s.issue := rfl

end State

namespace Work

/-! `pushItem` -/
@[simp] theorem pushItem_slot (it : BaseItem) (k : Nat) (w : Work) : (w.pushItem it k).slot = w.slot + k := rfl
@[simp] theorem pushItem_cur (it : BaseItem) (k : Nat) (w : Work) : (w.pushItem it k).cur = w.cur := rfl
@[simp] theorem pushItem_stop (it : BaseItem) (k : Nat) (w : Work) : (w.pushItem it k).stop = w.stop := rfl
@[simp] theorem pushItem_nextItem (it : BaseItem) (k : Nat) (w : Work) : (w.pushItem it k).nextItem = w.nextItem := rfl
@[simp] theorem pushItem_litPos (it : BaseItem) (k : Nat) (w : Work) : (w.pushItem it k).litPos = w.litPos := rfl
@[simp] theorem pushItem_pc (it : BaseItem) (k : Nat) (w : Work) : (w.pushItem it k).pc = w.pc := rfl
@[simp] theorem pushItem_variant (it : BaseItem) (k : Nat) (w : Work) : (w.pushItem it k).frame.variant = w.frame.variant := rfl
@[simp] theorem pushItem_ctl (it : BaseItem) (k : Nat) (w : Work) : (w.pushItem it k).frame.ctl = w.frame.ctl := rfl
@[simp] theorem pushItem_seq (it : BaseItem) (k : Nat) (w : Work) : (w.pushItem it k).frame.seq = w.frame.seq := rfl
@[simp] theorem pushItem_dropped (it : BaseItem) (k : Nat) (w : Work) : (w.pushItem it k).frame.dropped = w.frame.dropped := rfl
@[simp] theorem pushItem_nparam (it : BaseItem) (k : Nat) (w : Work) : (w.pushItem it k).frame.nparam = w.frame.nparam := rfl
@[simp] theorem pushItem_channel (it : BaseItem) (k : Nat) (w : Work) : (w.pushItem it k).frame.channel = w.frame.channel := rfl
@[simp] theorem pushItem_litLen (it : BaseItem) (k : Nat) (w : Work) : (w.pushItem it k).frame.litLen = w.frame.litLen := rfl
@[simp] theorem pushItem_strIndex (it : BaseItem) (k : Nat) (w : Work) : (w.pushItem it k).frame.strIndex = w.frame.strIndex := rfl
@[simp] theorem pushItem_ts (it : BaseItem) (k : Nat) (w : Work) : (w.pushItem it k).frame.ts = w.frame.ts := rfl
@[simp] theorem pushItem_payLen (it : BaseItem) (k : Nat) (w : Work) : (w.pushItem it k).frame.payLen = w.frame.payLen := rfl
@[simp] theorem pushItem_payload (it : BaseItem) (k : Nat) (w : Work) : (w.pushItem it k).frame.payload = w.frame.payload := rfl
@[simp] theorem pushItem_trailer (it : BaseItem) (k : Nat) (w : Work) : (w.pushItem it k).frame.trailer = w.frame.trailer := rfl
@[simp] theorem pushItem_items (it : BaseItem) (k : Nat) (w : Work) : (w.pushItem it k).frame.items = w.frame.items ++ [it] := rfl
@[simp] theorem pushItem_extItems (it : BaseItem) (k : Nat) (w : Work) : (w.pushItem it k).frame.extItems = w.frame.extItems := rfl
@[simp] theorem pushItem_badLen (it : BaseItem) (k : Nat) (w : Work) : (w.pushItem it k).frame.badLen = w.frame.badLen := rfl
@[simp] theorem pushItem_text (it : BaseItem) (k : Nat) (w : Work) : (w.pushItem it k).frame.text = w.frame.text := rfl

/-! `endLoop` -/
@[simp] theorem endLoop_slot (w : Work) : (w.endLoop).slot = w.slot := rfl
@[simp] theorem endLoop_cur (w : Work) : (w.endLoop).cur = w.cur := rfl
@[simp] theorem endLoop_stop (w : Work) : (w.endLoop).stop = true := rfl
@[simp] theorem endLoop_nextItem (w : Work) : (w.endLoop).nextItem = w.nextItem := rfl
@[simp] theorem endLoop_litPos (w : Work) : (w.endLoop).litPos = w.litPos := rfl
@[simp] theorem endLoop_pc (w : Work) : (w.endLoop).pc = w.pc := rfl
@[simp] theorem endLoop_variant (w : Work) : (w.endLoop).frame.variant = w.frame.variant := rfl
@[simp] theorem endLoop_ctl (w : Work) : (w.endLoop).frame.ctl = w.frame.ctl := rfl
@[simp] theorem endLoop_seq (w : Work) : (w.endLoop).frame.seq = w.frame.seq := rfl
@[simp] theorem endLoop_dropped (w : Work) : (w.endLoop).frame.dropped = w.frame.dropped := rfl
@[simp] theorem endLoop_nparam (w : Work) : (w.endLoop).frame.nparam = w.frame.nparam := rfl
@[simp] theorem endLoop_channel (w : Work) : (w.endLoop).frame.channel = w.frame.channel := rfl
@[simp] theorem endLoop_litLen (w : Work) : (w.endLoop).frame.litLen = w.frame.litLen := rfl
@[simp] theorem endLoop_strIndex (w : Work) : (w.endLoop).frame.strIndex = w.frame.strIndex := rfl
@[simp] theorem endLoop_ts (w : Work) : (w.endLoop).frame.ts = w.frame.ts := rfl
@[simp] theorem endLoop_payLen (w : Work) : (w.endLoop).frame.payLen = w.frame.payLen := rfl
@[simp] theorem endLoop_payload (w : Work) : (w.endLoop).frame.payload = w.frame.payload := rfl
@[simp] theorem endLoop_trailer (w : Work) : (w.endLoop).frame.trailer = w.frame.trailer := rfl
@[simp] theorem endLoop_items (w : Work) : (w.endLoop).frame.items = w.frame.items := rfl
@[simp] theorem endLoop_extItems (w : Work) : (w.endLoop).frame.extItems = w.frame.extItems := rfl
@[simp] theorem endLoop_badLen (w : Work) : (w.endLoop).frame.badLen = w.frame.badLen := rfl
@[simp] theorem endLoop_text (w : Work) : (w.endLoop).frame.text = w.frame.text := rfl

/-! `endBadLen` -/
@[simp] theorem endBadLen_slot (w : Work) : (w.endBadLen).slot = w.slot := rfl
@[simp] theorem endBadLen_cur (w : Work) : (w.endBadLen).cur = w.cur := rfl
@[simp] theorem endBadLen_stop (w : Work) : (w.endBadLen).stop = true := rfl
@[simp] theorem endBadLen_nextItem (w : Work) : (w.endBadLen).nextItem = w.nextItem := rfl
@[simp] theorem endBadLen_litPos (w : Work) : (w.endBadLen).litPos = w.litPos := rfl
@[simp] theorem endBadLen_pc (w : Work) : (w.endBadLen).pc = w.pc := rfl
@[simp] theorem endBadLen_variant (w : Work) : (w.endBadLen).frame.variant = w.frame.variant := rfl
@[simp] theorem endBadLen_ctl (w : Work) : (w.endBadLen).frame.ctl = w.frame.ctl := rfl
@[simp] theorem endBadLen_seq (w : Work) : (w.endBadLen).frame.seq = w.frame.seq := rfl
@[simp] theorem endBadLen_dropped (w : Work) : (w.endBadLen).frame.dropped = w.frame.dropped := rfl
@[simp] theorem endBadLen_nparam (w : Work) : (w.endBadLen).frame.nparam = w.frame.nparam := rfl
@[simp] theorem endBadLen_channel (w : Work) : (w.endBadLen).frame.channel = w.frame.channel := rfl
@[simp] theorem endBadLen_litLen (w : Work) : (w.endBadLen).frame.litLen = w.frame.litLen := rfl
@[simp] theorem endBadLen_strIndex (w : Work) : (w.endBadLen).frame.strIndex = w.frame.strIndex := rfl
@[simp] theorem endBadLen_ts (w : Work) : (w.endBadLen).frame.ts = w.frame.ts := rfl
@[simp] theorem endBadLen_payLen (w : Work) : (w.endBadLen).frame.payLen = w.frame.payLen := rfl
@[simp] theorem endBadLen_payload (w : Work) : (w.endBadLen).frame.payload = w.frame.payload := rfl
@[simp] theorem endBadLen_trailer (w : Work) : (w.endBadLen).frame.trailer = w.frame.trailer := rfl
@[simp] theorem endBadLen_items (w : Work) : (w.endBadLen).frame.items = w.frame.items := rfl
@[simp] theorem endBadLen_extItems (w : Work) : (w.endBadLen).frame.extItems = w.frame.extItems := rfl
@[simp] theorem endBadLen_badLen (w : Work) : (w.endBadLen).frame.badLen = true := rfl
@[simp] theorem endBadLen_text (w : Work) : (w.endBadLen).frame.text = w.frame.text := rfl

/-! `appendText` -/
@[simp] theorem appendText_slot (x : Bytes) (w : Work) : (w.appendText x).slot = w.slot := rfl
@[simp] theorem appendText_cur (x : Bytes) (w : Work) : (w.appendText x).cur = w.cur := rfl
@[simp] theorem appendText_stop (x : Bytes) (w : Work) : (w.appendText x).stop = w.stop := rfl
@[simp] theorem appendText_nextItem (x : Bytes) (w : Work) : (w.appendText x).nextItem = w.nextItem := rfl
@[simp] theorem appendText_litPos (x : Bytes) (w : Work) : (w.appendText x).litPos = w.litPos := rfl
@[simp] theorem appendText_pc (x : Bytes) (w : Work) : (w.appendText x).pc = w.pc := rfl
@[simp] theorem appendText_variant (x : Bytes) (w : Work) : (w.appendText x).frame.variant = w.frame.variant := rfl
@[simp] theorem appendText_ctl (x : Bytes) (w : Work) : (w.appendText x).frame.ctl = w.frame.ctl := rfl
@[simp] theorem appendText_seq (x : Bytes) (w : Work) : (w.appendText x).frame.seq = w.frame.seq := rfl
@[simp] theorem appendText_dropped (x : Bytes) (w : Work) : (w.appendText x).frame.dropped = w.frame.dropped := rfl
@[simp] theorem appendText_nparam (x : Bytes) (w : Work) : (w.appendText x).frame.nparam = w.frame.nparam := rfl
@[simp] theorem appendText_channel (x : Bytes) (w : Work) : (w.appendText x).frame.channel = w.frame.channel := rfl
@[simp] theorem appendText_litLen (x : Bytes) (w : Work) : (w.appendText x).frame.litLen = w.frame.litLen := rfl
@[simp] theorem appendText_strIndex (x : Bytes) (w : Work) : (w.appendText x).frame.strIndex = w.frame.strIndex := rfl
@[simp] theorem appendText_ts (x : Bytes) (w : Work) : (w.appendText x).frame.ts = w.frame.ts := rfl
@[simp] theorem appendText_payLen (x : Bytes) (w : Work) : (w.appendText x).frame.payLen = w.frame.payLen := rfl
@[simp] theorem appendText_payload (x : Bytes) (w : Work) : (w.appendText x).frame.payload = w.frame.payload := rfl
@[simp] theorem appendText_trailer (x : Bytes) (w : Work) : (w.appendText x).frame.trailer = w.frame.trailer := rfl
@[simp] theorem appendText_items (x : Bytes) (w : Work) : (w.appendText x).frame.items = w.frame.items := rfl
@[simp] theorem appendText_extItems (x : Bytes) (w : Work) : (w.appendText x).frame.extItems = w.frame.extItems := rfl
@[simp] theorem appendText_badLen (x : Bytes) (w : Work) : (w.appendText x).frame.badLen = w.frame.badLen := rfl
@[simp] theorem appendText_text (x : Bytes) (w : Work) : (w.appendText x).frame.text = w.frame.text ++ x := rfl

/-! `advanceLit` -/
@[simp] theorem advanceLit_slot (n : Nat) (w : Work) : (w.advanceLit n).slot = w.slot := rfl
@[simp] theorem advanceLit_cur (n : Nat) (w : Work) : (w.advanceLit n).cur = w.cur := rfl
@[simp] theorem advanceLit_stop (n : Nat) (w : Work) : (w.advanceLit n).stop = w.stop := rfl
@[simp] theorem advanceLit_nextItem (n : Nat) (w : Work) : (w.advanceLit n).nextItem = w.nextItem := rfl
@[simp] theorem advanceLit_litPos (n : Nat) (w : Work) : (w.advanceLit n).litPos = w.litPos + n := rfl
@[simp] theorem advanceLit_pc (n : Nat) (w : Work) : (w.advanceLit n).pc = w.pc := rfl
@[simp] theorem advanceLit_variant (n : Nat) (w : Work) : (w.advanceLit n).frame.variant = w.frame.variant := rfl
@[simp] theorem advanceLit_ctl (n : Nat) (w : Work) : (w.advanceLit n).frame.ctl = w.frame.ctl := rfl
@[simp] theorem advanceLit_seq (n : Nat) (w : Work) : (w.advanceLit n).frame.seq = w.frame.seq := rfl
@[simp] theorem advanceLit_dropped (n : Nat) (w : Work) : (w.advanceLit n).frame.dropped = w.frame.dropped := rfl
@[simp] theorem advanceLit_nparam (n : Nat) (w : Work) : (w.advanceLit n).frame.nparam = w.frame.nparam := rfl
@[simp] theorem advanceLit_channel (n : Nat) (w : Work) : (w.advanceLit n).frame.channel = w.frame.channel := rfl
@[simp] theorem advanceLit_litLen (n : Nat) (w : Work) : (w.advanceLit n).frame.litLen = w.frame.litLen := rfl
@[simp] theorem advanceLit_strIndex (n : Nat) (w : Work) : (w.advanceLit n).frame.strIndex = w.frame.strIndex := rfl
@[simp] theorem advanceLit_ts (n : Nat) (w : Work) : (w.advanceLit n).frame.ts = w.frame.ts := rfl
@[simp] theorem advanceLit_payLen (n : Nat) (w : Work) : (w.advanceLit n).frame.payLen = w.frame.payLen := rfl
@[simp] theorem advanceLit_payload (n : Nat) (w : Work) : (w.advanceLit n).frame.payload = w.frame.payload := rfl
@[simp] theorem advanceLit_trailer (n : Nat) (w : Work) : (w.advanceLit n).frame.trailer = w.frame.trailer := rfl
@[simp] theorem advanceLit_items (n : Nat) (w : Work) : (w.advanceLit n).frame.items = w.frame.items := rfl
@[simp] theorem advanceLit_extItems (n : Nat) (w : Work) : (w.advanceLit n).frame.extItems = w.frame.extItems := rfl
@[simp] theorem advanceLit_badLen (n : Nat) (w : Work) : (w.advanceLit n).frame.badLen = w.frame.badLen := rfl
@[simp] theorem advanceLit_text (n : Nat) (w : Work) : (w.advanceLit n).frame.text = w.frame.text := rfl

/-! `pushExt` -/
@[simp] theorem pushExt_slot (it : ExtItem) (w : Work) : (w.pushExt it).slot = w.slot := rfl
@[simp] theorem pushExt_cur (it : ExtItem) (w : Work) : (w.pushExt it).cur = w.cur := rfl
@[simp] theorem pushExt_stop (it : ExtItem) (w : Work) : (w.pushExt it).stop = w.stop := rfl
@[simp] theorem pushExt_nextItem (it : ExtItem) (w : Work) : (w.pushExt it).nextItem = w.nextItem := rfl
@[simp] theorem pushExt_litPos (it : ExtItem) (w : Work) : (w.pushExt it).litPos = w.litPos := rfl
@[simp] theorem pushExt_pc (it : ExtItem) (w : Work) : (w.pushExt it).pc = w.pc := rfl
@[simp] theorem pushExt_variant (it : ExtItem) (w : Work) : (w.pushExt it).frame.variant = w.frame.variant := rfl
@[simp] theorem pushExt_ctl (it : ExtItem) (w : Work) : (w.pushExt it).frame.ctl = w.frame.ctl := rfl
@[simp] theorem pushExt_seq (it : ExtItem) (w : Work) : (w.pushExt it).frame.seq = w.frame.seq := rfl
@[simp] theorem pushExt_dropped (it : ExtItem) (w : Work) : (w.pushExt it).frame.dropped = w.frame.dropped := rfl
@[simp] theorem pushExt_nparam (it : ExtItem) (w : Work) : (w.pushExt it).frame.nparam = w.frame.nparam := rfl
@[simp] theorem pushExt_channel (it : ExtItem) (w : Work) : (w.pushExt it).frame.channel = w.frame.channel := rfl
@[simp] theorem pushExt_litLen (it : ExtItem) (w : Work) : (w.pushExt it).frame.litLen = w.frame.litLen := rfl
@[simp] theorem pushExt_strIndex (it : ExtItem) (w : Work) : (w.pushExt it).frame.strIndex = w.frame.strIndex := rfl
@[simp] theorem pushExt_ts (it : ExtItem) (w : Work) : (w.pushExt it).frame.ts = w.frame.ts := rfl
@[simp] theorem pushExt_payLen (it : ExtItem) (w : Work) : (w.pushExt it).frame.payLen = w.frame.payLen := rfl
@[simp] theorem pushExt_payload (it : ExtItem) (w : Work) : (w.pushExt it).frame.payload = w.frame.payload := rfl
@[simp] theorem pushExt_trailer (it : ExtItem) (w : Work) : (w.pushExt it).frame.trailer = w.frame.trailer := rfl
@[simp] theorem pushExt_items (it : ExtItem) (w : Work) : (w.pushExt it).frame.items = w.frame.items := rfl
@[simp] theorem pushExt_extItems (it : ExtItem) (w : Work) : (w.pushExt it).frame.extItems = w.frame.extItems ++ [it] := rfl
@[simp] theorem pushExt_badLen (it : ExtItem) (w : Work) : (w.pushExt it).frame.badLen = w.frame.badLen := rfl
@[simp] theorem pushExt_text (it : ExtItem) (w : Work) : (w.pushExt it).frame.text = w.frame.text := rfl

/-! `put` -/
@[simp] theorem put_slot (x rest : Bytes) (it : ExtItem) (w : Work) : (w.put x rest it).slot = w.slot := rfl
@[simp] theorem put_cur (x rest : Bytes) (it : ExtItem) (w : Work) : (w.put x rest it).cur = w.cur := rfl
@[simp] theorem put_stop (x rest : Bytes) (it : ExtItem) (w : Work) : (w.put x rest it).stop = w.stop := rfl
@[simp] theorem put_nextItem (x rest : Bytes) (it : ExtItem) (w : Work) : (w.put x rest it).nextItem = w.nextItem := rfl
@[simp] theorem put_litPos (x rest : Bytes) (it : ExtItem) (w : Work) : (w.put x rest it).litPos = w.litPos := rfl
@[simp] theorem put_pc (x rest : Bytes) (it : ExtItem) (w : Work) : (w.put x rest it).pc = w.pc := rfl
@[simp] theorem put_variant (x rest : Bytes) (it : ExtItem) (w : Work) : (w.put x rest it).frame.variant = w.frame.variant := rfl
@[simp] theorem put_ctl (x rest : Bytes) (it : ExtItem) (w : Work) : (w.put x rest it).frame.ctl = w.frame.ctl := rfl
@[simp] theorem put_seq (x rest : Bytes) (it : ExtItem) (w : Work) : (w.put x rest it).frame.seq = w.frame.seq := rfl
@[simp] theorem put_dropped (x rest : Bytes) (it : ExtItem) (w : Work) : (w.put x rest it).frame.dropped = w.frame.dropped := rfl
@[simp] theorem put_nparam (x rest : Bytes) (it : ExtItem) (w : Work) : (w.put x rest it).frame.nparam = w.frame.nparam := rfl
@[simp] theorem put_channel (x rest : Bytes) (it : ExtItem) (w : Work) : (w.put x rest it).frame.channel = w.frame.channel := rfl
@[simp] theorem put_litLen (x rest : Bytes) (it : ExtItem) (w : Work) : (w.put x rest it).frame.litLen = w.frame.litLen := rfl
@[simp] theorem put_strIndex (x rest : Bytes) (it : ExtItem) (w : Work) : (w.put x rest it).frame.strIndex = w.frame.strIndex := rfl
@[simp] theorem put_ts (x rest : Bytes) (it : ExtItem) (w : Work) : (w.put x rest it).frame.ts = w.frame.ts := rfl
@[simp] theorem put_payLen (x rest : Bytes) (it : ExtItem) (w : Work) : (w.put x rest it).frame.payLen = w.frame.payLen := rfl
@[simp] theorem put_payload (x rest : Bytes) (it : ExtItem) (w : Work) : (w.put x rest it).frame.payload = w.frame.payload := rfl
@[simp] theorem put_trailer (x rest : Bytes) (it : ExtItem) (w : Work) : (w.put x rest it).frame.trailer = w.frame.trailer := rfl
@[simp] theorem put_items (x rest : Bytes) (it : ExtItem) (w : Work) : (w.put x rest it).frame.items = w.frame.items := rfl
@[simp] theorem put_extItems (x rest : Bytes) (it : ExtItem) (w : Work) : (w.put x rest it).frame.extItems = w.frame.extItems ++ [it] := rfl
@[simp] theorem put_badLen (x rest : Bytes) (it : ExtItem) (w : Work) : (w.put x rest it).frame.badLen = w.frame.badLen := rfl
@[simp] theorem put_text (x rest : Bytes) (it : ExtItem) (w : Work) : (w.put x rest it).frame.text = w.frame.text ++ (x ++ rest) := rfl

/-! `scanBadLen` -/
@[simp] theorem scanBadLen_slot (w : Work) : (w.scanBadLen).slot = w.slot := rfl
@[simp] theorem scanBadLen_cur (w : Work) : (w.scanBadLen).cur = w.cur := rfl
@[simp] theorem scanBadLen_stop (w : Work) : (w.scanBadLen).stop = true := rfl
@[simp] theorem scanBadLen_nextItem (w : Work) : (w.scanBadLen).nextItem = w.nextItem := rfl
@[simp] theorem scanBadLen_litPos (w : Work) : (w.scanBadLen).litPos = w.litPos := rfl
@[simp] theorem scanBadLen_pc (w : Work) : (w.scanBadLen).pc = w.pc := rfl
@[simp] theorem scanBadLen_variant (w : Work) : (w.scanBadLen).frame.variant = w.frame.variant := rfl
@[simp] theorem scanBadLen_ctl (w : Work) : (w.scanBadLen).frame.ctl = w.frame.ctl := rfl
@[simp] theorem scanBadLen_seq (w : Work) : (w.scanBadLen).frame.seq = w.frame.seq := rfl
@[simp] theorem scanBadLen_dropped (w : Work) : (w.scanBadLen).frame.dropped = w.frame.dropped := rfl
@[simp] theorem scanBadLen_nparam (w : Work) : (w.scanBadLen).frame.nparam = w.frame.nparam := rfl
@[simp] theorem scanBadLen_channel (w : Work) : (w.scanBadLen).frame.channel = w.frame.channel := rfl
@[simp] theorem scanBadLen_litLen (w : Work) : (w.scanBadLen).frame.litLen = w.frame.litLen := rfl
@[simp] theorem scanBadLen_strIndex (w : Work) : (w.scanBadLen).frame.strIndex = w.frame.strIndex := rfl
@[simp] theorem scanBadLen_ts (w : Work) : (w.scanBadLen).frame.ts = w.frame.ts := rfl
@[simp] theorem scanBadLen_payLen (w : Work) : (w.scanBadLen).frame.payLen = w.frame.payLen := rfl
@[simp] theorem scanBadLen_payload (w : Work) : (w.scanBadLen).frame.payload = w.frame.payload := rfl
@[simp] theorem scanBadLen_trailer (w : Work) : (w.scanBadLen).frame.trailer = w.frame.trailer := rfl
@[simp] theorem scanBadLen_items (w : Work) : (w.scanBadLen).frame.items = w.frame.items := rfl
@[simp] theorem scanBadLen_extItems (w : Work) : (w.scanBadLen).frame.extItems = w.frame.extItems := rfl
@[simp] theorem scanBadLen_badLen (w : Work) : (w.scanBadLen).frame.badLen = true := rfl
@[simp] theorem scanBadLen_text (w : Work) : (w.scanBadLen).frame.text = w.frame.text ++ badLenText := rfl

end Work

end Sys2Proof.Machine
end

