-- ==== Sys2Proof/Laws/Assembler.lean ====
section
/-! SUPPORT. What the assembler's shared operations can do: the fields after raising, tracking and
completing, and the cases of one fed byte. -/

namespace Sys2Proof.Machine

namespace State

/-! `raiseIf` -/
@[simp] theorem raiseIf_cfg (k : Option Condition) (s : State) : (s.raiseIf k).cfg = s.cfg := by
  cases k <;> rfl
@[simp] theorem raiseIf_asm (k : Option Condition) (s : State) : (s.raiseIf k).asm = s.asm := by
  cases k <;> rfl
@[simp] theorem raiseIf_buf (k : Option Condition) (s : State) : (s.raiseIf k).buf = s.buf := by
  cases k <;> rfl
@[simp] theorem raiseIf_bufLen (k : Option Condition) (s : State) : (s.raiseIf k).bufLen = s.bufLen := by
  cases k <;> rfl
@[simp] theorem raiseIf_expLen (k : Option Condition) (s : State) : (s.raiseIf k).expLen = s.expLen := by
  cases k <;> rfl
@[simp] theorem raiseIf_seqValid (k : Option Condition) (s : State) : (s.raiseIf k).seqValid = s.seqValid := by
  cases k <;> rfl
@[simp] theorem raiseIf_nextSeq (k : Option Condition) (s : State) : (s.raiseIf k).nextSeq = s.nextSeq := by
  cases k <;> rfl
@[simp] theorem raiseIf_lastTs (k : Option Condition) (s : State) : (s.raiseIf k).lastTs = s.lastTs := by
  cases k <;> rfl
@[simp] theorem raiseIf_decFifo (k : Option Condition) (s : State) : (s.raiseIf k).decFifo = s.decFifo := by
  cases k <;> rfl
@[simp] theorem raiseIf_errFifo (k : Option Condition) (s : State) :
    (s.raiseIf k).errFifo = s.errFifo ++ k.toList := by
  cases k <;> simp [raiseIf]
@[simp] theorem raiseIf_work (k : Option Condition) (s : State) : (s.raiseIf k).work = s.work := by
  cases k <;> rfl
@[simp] theorem raiseIf_result (k : Option Condition) (s : State) : (s.raiseIf k).result = s.result := by
  cases k <;> rfl
@[simp] theorem raiseIf_issue (k : Option Condition) (s : State) : (s.raiseIf k).issue = s.issue := by
  cases k <;> rfl

/-! `trackHeader` -/
@[simp] theorem trackHeader_cfg (s : State) : s.trackHeader.cfg = s.cfg := by
  simp [trackHeader]
@[simp] theorem trackHeader_asm (s : State) : s.trackHeader.asm = s.asm := by
  simp [trackHeader]
@[simp] theorem trackHeader_buf (s : State) : s.trackHeader.buf = s.buf := by
  simp [trackHeader]
@[simp] theorem trackHeader_bufLen (s : State) : s.trackHeader.bufLen = s.bufLen := by
  simp [trackHeader]
@[simp] theorem trackHeader_expLen (s : State) : s.trackHeader.expLen = s.expLen := by
  simp [trackHeader]
@[simp] theorem trackHeader_seqValid (s : State) : s.trackHeader.seqValid = true := by
  simp [trackHeader]
@[simp] theorem trackHeader_nextSeq (s : State) : s.trackHeader.nextSeq = ctlSeq s.hdrCtl + 1 := by
  simp [trackHeader]
@[simp] theorem trackHeader_lastTs (s : State) : s.trackHeader.lastTs = s.hdrTs := by
  simp [trackHeader]
@[simp] theorem trackHeader_decFifo (s : State) : s.trackHeader.decFifo = s.decFifo := by
  simp [trackHeader]
@[simp] theorem trackHeader_errFifo (s : State) : s.trackHeader.errFifo = s.errFifo ++ s.gapCondition.toList ++ s.dropCondition.toList := by
  simp [trackHeader]
@[simp] theorem trackHeader_work (s : State) : s.trackHeader.work = s.work := by
  simp [trackHeader]
@[simp] theorem trackHeader_result (s : State) : s.trackHeader.result = s.result := by
  simp [trackHeader]
@[simp] theorem trackHeader_issue (s : State) : s.trackHeader.issue = s.issue := by
  simp [trackHeader]

/-! `completeFrame` -/
@[simp] theorem completeFrame_cfg (s : State) : s.completeFrame.cfg = s.cfg := by
  simp [completeFrame]
@[simp] theorem completeFrame_asm (s : State) : s.completeFrame.asm = s.asm := by
  simp [completeFrame]
@[simp] theorem completeFrame_buf (s : State) : s.completeFrame.buf = s.buf := by
  simp [completeFrame]
@[simp] theorem completeFrame_bufLen (s : State) : s.completeFrame.bufLen = s.bufLen := by
  simp [completeFrame]
@[simp] theorem completeFrame_expLen (s : State) : s.completeFrame.expLen = s.expLen := by
  simp [completeFrame]
@[simp] theorem completeFrame_seqValid (s : State) : s.completeFrame.seqValid = s.seqValid := by
  simp [completeFrame]
@[simp] theorem completeFrame_nextSeq (s : State) : s.completeFrame.nextSeq = s.nextSeq := by
  simp [completeFrame]
@[simp] theorem completeFrame_lastTs (s : State) : s.completeFrame.lastTs = s.lastTs := by
  simp [completeFrame]
@[simp] theorem completeFrame_decFifo (s : State) : s.completeFrame.decFifo = s.decFifo ++ [s.frameRecord] := by
  simp [completeFrame]
@[simp] theorem completeFrame_errFifo (s : State) : s.completeFrame.errFifo = s.errFifo ++ s.trailerCondition.toList := by
  simp [completeFrame]
@[simp] theorem completeFrame_work (s : State) : s.completeFrame.work = Work.idle := by
  simp [completeFrame]
@[simp] theorem completeFrame_result (s : State) : s.completeFrame.result = s.result := by
  simp [completeFrame]
@[simp] theorem completeFrame_issue (s : State) : s.completeFrame.issue = s.issue := by
  simp [completeFrame]

/-! The header is a function of the configuration and of `BUF` (10_state.md R26). -/

theorem header_congr {s t : State} (h : s.buf = t.buf) : s.header = t.header := by
  rw [header, header, h]

theorem hdrCtl_congr {s t : State} (h : s.buf = t.buf) : s.hdrCtl = t.hdrCtl := by
  rw [hdrCtl, hdrCtl, header_congr h]

theorem hdrTs_congr {s t : State} (hc : s.cfg = t.cfg) (h : s.buf = t.buf) : s.hdrTs = t.hdrTs := by
  rw [hdrTs, hdrTs, header_congr h, hc]

theorem hdrPayLen_congr {s t : State} (hc : s.cfg = t.cfg) (h : s.buf = t.buf) :
    s.hdrPayLen = t.hdrPayLen := by
  rw [hdrPayLen, hdrPayLen, header_congr h, hc]

theorem crcValid_congr {s t : State} (h : s.buf = t.buf) : s.crcValid = t.crcValid := by
  rw [crcValid, crcValid, header_congr h]

theorem trailerByte_congr {s t : State} (hc : s.cfg = t.cfg) (h : s.buf = t.buf) :
    s.trailerByte = t.trailerByte := by
  rw [trailerByte, trailerByte, hdrPayLen_congr hc h, h]

theorem headerRec_congr {s t : State} (hc : s.cfg = t.cfg) (h : s.buf = t.buf) :
    s.headerRec = t.headerRec := by
  simp only [headerRec, hdrCtl_congr h, hdrTs_congr hc h, hdrPayLen_congr hc h, header_congr h, hc, h,
    trailerByte_congr hc h]

theorem frameRecord_congr {s t : State} (hc : s.cfg = t.cfg) (h : s.buf = t.buf) :
    s.frameRecord = t.frameRecord := by
  rw [frameRecord, frameRecord, headerRec_congr hc h, hc]

theorem trailerCondition_congr {s t : State} (hc : s.cfg = t.cfg) (h : s.buf = t.buf) :
    s.trailerCondition = t.trailerCondition := by
  rw [trailerCondition, trailerCondition, trailerMissing, trailerMissing, trailerByte_congr hc h,
    hdrPayLen_congr hc h]

/-- Reading the header needs only the first 13 bytes. -/
theorem header_accumulate {s : State} (b : Byte) (h : headerSize ≤ s.bufLen.toNat) :
    (s.accumulate b).header = s.header :=
  Mem.readBytes_write _ _ _ _ _ (.inr (by simpa using h))

/-- What one fed byte can do (40_frame_assembler.md R70 to R72). -/
theorem feedByte_cases {b : Byte} {s t : State} {c : Bool} (h : s.feedByte b = .ok (c, t)) :
    (s.asm = .idle ∧ b = s.cfg.startMagic ∧ c = true ∧ t = s.startFrame b) ∨
    (s.asm = .idle ∧ b ≠ s.cfg.startMagic ∧ c = false ∧ t = s) ∨
    (s.asm ≠ .idle ∧ s.bufLen.toNat < s.cfg.frameMax ∧ c = true ∧ t = (s.accumulate b).afterByte) := by
  simp only [feedByte, feedIdle, feedInFrame, startsFrame, beq_iff_eq] at h
  split at h
  · rename_i ha
    split at h <;> simp only [Except.ok.injEq, Prod.mk.injEq] at h <;> obtain ⟨rfl, rfl⟩ := h
    · exact .inl ⟨ha, ‹_›, rfl, rfl⟩
    · exact .inr (.inl ⟨ha, ‹_›, rfl, rfl⟩)
  all_goals
    rename_i ha
    split at h
    · simp only [Except.ok.injEq, Prod.mk.injEq] at h
      obtain ⟨rfl, rfl⟩ := h
      exact .inr (.inr ⟨by simp [ha], ‹_›, rfl, rfl⟩)
    · cases h

/-- A fed byte stops only where `BUF` ends (log 12). -/
theorem feedByte_error {b : Byte} {s : State} {f : Fault} (h : s.feedByte b = .error f) :
    s.asm ≠ .idle ∧ s.cfg.frameMax ≤ s.bufLen.toNat := by
  simp only [feedByte, feedInFrame] at h
  split at h
  · cases h
  all_goals
    rename_i ha
    split at h
    · cases h
    · exact ⟨by simp [ha], by omega⟩

/-- What follows an accumulated byte (40_frame_assembler.md R70, R73 to R76). -/
theorem afterByte_cases (s : State) :
    (s.afterByte = s ∧ (s.asm = .hdr → s.bufLen ≠ 13) ∧ (s.asm = .pay → s.bufLen ≠ s.expLen)) ∨
    (s.asm = .hdr ∧ s.bufLen = 13 ∧ s.crcValid = false ∧ s.afterByte = s.goIdle) ∨
    (s.asm = .hdr ∧ s.bufLen = 13 ∧ s.crcValid = true ∧ s.hdrPayLen = 0 ∧
      s.afterByte = s.trackHeader.completeFrame.goIdle) ∨
    (s.asm = .hdr ∧ s.bufLen = 13 ∧ s.crcValid = true ∧ s.hdrPayLen ≠ 0 ∧
      s.afterByte = s.trackHeader.expectPayload (13 + s.hdrPayLen.zeroExtend 17 + 1)) ∨
    (s.asm = .pay ∧ s.bufLen = s.expLen ∧ s.afterByte = s.completeFrame.goIdle) := by
  simp only [afterByte, headerComplete]
  cases ha : s.asm
  · simp
  · by_cases hl : s.bufLen = 13 <;> by_cases hc : s.crcValid = true <;> by_cases hp : s.hdrPayLen = 0 <;>
      simp_all
  · by_cases hl : s.bufLen = s.expLen <;> simp [hl]

/-- The gap condition as the list it appends to ERR_FIFO (41_sequence_tracker.md R91, R92). -/
theorem gapCondition_toList (s : State) : s.gapCondition.toList =
    (if s.hdrTs.toNat < s.lastTs.toNat then
      (if s.hdrCtl.extractLsb' 0 4 = 0 then [] else [.missingPackets (s.hdrCtl.extractLsb' 0 4) 0])
    else if s.seqValid then
      (if s.hdrCtl.extractLsb' 0 4 = s.nextSeq then []
        else [.missingPackets (s.hdrCtl.extractLsb' 0 4) s.nextSeq])
    else []) := by
  simp only [gapCondition, gap, expectedSeq, rebooted, ctlSeq, decide_eq_true_eq]
  by_cases h1 : s.hdrTs.toNat < s.lastTs.toNat
  · simp only [if_pos h1]
    by_cases h2 : s.hdrCtl.extractLsb' 0 4 = 0#4 <;> simp [h2]
  · simp only [if_neg h1]
    by_cases h3 : s.seqValid = true
    · simp only [if_pos h3]
      by_cases h2 : s.hdrCtl.extractLsb' 0 4 = s.nextSeq <;> simp [h2]
    · simp [h3]

/-- The drop condition as the list it appends to ERR_FIFO (41_sequence_tracker.md R93). -/
theorem dropCondition_toList (s : State) :
    s.dropCondition.toList = if s.hdrCtl.getLsbD 4 then [.senderDropped] else [] := by
  unfold dropCondition senderDropped ctlDropped
  by_cases h : s.hdrCtl.getLsbD 4 = true
  · rw [if_pos h, if_pos h]; rfl
  · rw [if_neg h, if_neg h]; rfl

/-- A frame without a payload raises no trailer condition (40_frame_assembler.md R77). -/
theorem trailerCondition_none {s : State} (h : s.hdrPayLen = 0) : s.trailerCondition = none := by
  simp [trailerCondition, trailerMissing, h]

/-- The trailer condition of a frame with a payload (40_frame_assembler.md R77). -/
theorem trailerCondition_toList {s : State} (h : s.hdrPayLen ≠ 0) :
    s.trailerCondition.toList = if s.trailerByte = 0xC1#8 then [] else [.missingEndMagic s.trailerByte] := by
  have h0 : 0 < s.hdrPayLen.toNat := by
    rcases Nat.eq_zero_or_pos s.hdrPayLen.toNat with h0 | h0
    · exact absurd (BitVec.eq_of_toNat_eq h0) h
    · exact h0
  by_cases ht : s.trailerByte = 0xC1#8 <;> simp [trailerCondition, trailerMissing, h0, ht, magicEnd]

theorem frameMax_gt (c : Cfg) : 13 < c.frameMax := by
  unfold Cfg.frameMax
  split <;> decide

/-- A byte inside a frame is accumulated (40_frame_assembler.md R72). -/
theorem feedByte_inFrame {s : State} (b : Byte) (h : s.asm ≠ .idle) (hl : s.bufLen.toNat < s.cfg.frameMax) :
    s.feedByte b = .ok (true, (s.accumulate b).afterByte) := by
  cases ha : s.asm <;> simp_all [feedByte, feedInFrame]

/-- The header after its last byte. -/
theorem header_last {s : State} (b : Byte) (hl : s.bufLen = 12) :
    (s.accumulate b).header = Mem.readBytes s.buf 0 12 ++ [b] := by
  have e : ∀ m : Mem, Mem.readBytes m 0 13 = Mem.readBytes m 0 12 ++ [Mem.read m 12] := by
    intro m
    simp [Mem.readBytes, List.range_succ]
  simp only [header, headerSize, accumulate, hl]
  rw [e, Mem.readBytes_write _ _ _ _ _ (.inr (by decide))]
  simp [Mem.read_write]

theorem crcValid_last {s : State} (b : Byte) (hl : s.bufLen = 12) :
    (s.accumulate b).crcValid = (crc8 (Mem.readBytes s.buf 0 12) == b) := by
  simp [crcValid, header_last b hl, byteAt]

/-- The byte that completes a header (40_frame_assembler.md R70, R73). -/
theorem feedByte_lastOfHeader {s : State} (b : Byte) (ha : s.asm = .hdr) (hl : s.bufLen = 12) :
    s.feedByte b = .ok (true, (s.accumulate b).headerComplete) := by
  have hm : s.bufLen.toNat < s.cfg.frameMax := by
    have := frameMax_gt s.cfg
    rw [hl]
    exact Nat.lt_trans (by decide) this
  have ha' : (s.accumulate b).asm = .hdr := ha
  have hl' : (s.accumulate b).bufLen = 13 := by simp [accumulate, hl]
  rw [feedByte_inFrame b (by simp [ha]) hm]
  simp only [afterByte, ha', hl', if_true]

/-- The record of a completed frame is the header's, with items, `bad_len` and text (40_frame_assembler.md
R78). -/
theorem frameRecord_eq (s : State) : s.frameRecord = { s.headerRec with
    items := s.frameRecord.items, extItems := s.frameRecord.extItems,
    badLen := s.frameRecord.badLen, text := s.frameRecord.text } :=
  Work.decodeFrame_frame s.cfg (Work.start s.headerRec)

end State

/-- An extraction operation always answers a next state, and it changes only the local variables and the
result. -/
theorem State.runWork_eq (f : Work → Work) (s : State) :
    s.runWork f = .next { s with work := f s.work, result := .none } := rfl

/-- What FEED answers. -/
theorem State.feedOutcome_next {b : Byte} {s t : State} (h : s.feedOutcome b = .next t) :
    ∃ c u, s.feedByte b = .ok (c, u) ∧ t = u.setResult (.consumed c) := by
  simp only [feedOutcome] at h
  split at h
  · rename_i c u hu
    exact ⟨c, u, hu, by injection h with h; exact h.symm⟩
  · cases h

/-- What FEED* answers. -/
theorem State.feedAllOutcome_next {bs : Bytes} {s t : State} (h : s.feedAllOutcome bs = .next t) :
    ∃ cs u, s.feedAll bs = .ok (cs, u) ∧ t = u.setResult (.consumedEach cs) := by
  simp only [feedAllOutcome] at h
  split at h
  · rename_i c u hu
    exact ⟨c, u, hu, by injection h with h; exact h.symm⟩
  · cases h

/-- A property every fed byte keeps, every FEED* keeps. -/
theorem State.feedAll_induct {P : State → Prop}
    (step : ∀ (s t : State) b c, P s → s.feedByte b = .ok (c, t) → P t) :
    ∀ (bs : Bytes) (s t : State) cs, P s → s.feedAll bs = .ok (cs, t) → P t := by
  intro bs
  induction bs with
  | nil =>
    intro s t cs hs h
    simp only [feedAll, Except.ok.injEq, Prod.mk.injEq] at h
    exact h.2 ▸ hs
  | cons b bs ih =>
    intro s t cs hs h
    simp only [feedAll] at h
    split at h
    · cases h
    · rename_i c u hu
      split at h
      · cases h
      · rename_i ds v hv
        simp only [Except.ok.injEq, Prod.mk.injEq] at h
        exact h.2 ▸ ih u v ds (step s u b c hs hu) hv

end Sys2Proof.Machine
end

