-- ==== Sys2Proof/Laws/Bytes.lean ====
section
/-! SUPPORT. The value of a little-endian byte string, byte by byte. -/

namespace Sys2Proof

/-- A byte string appended below a value. -/
theorem toNat_append_byte {n : Nat} (x : BitVec n) (b : Byte) : (x ++ b).toNat = 256 * x.toNat + b.toNat := by
  rw [BitVec.toNat_append, ← Nat.shiftLeft_add_eq_or_of_lt b.isLt, Nat.shiftLeft_eq]
  omega

theorem leVal_two (b0 b1 : Byte) : leVal [b0, b1] = (b1 ++ b0).toNat := by
  have := toNat_append_byte b1 b0
  simp only [leVal]
  omega

theorem leVal_four (b0 b1 b2 b3 : Byte) : leVal [b0, b1, b2, b3] = (b3 ++ b2 ++ b1 ++ b0).toNat := by
  have h1 := toNat_append_byte b3 b2
  have h2 := toNat_append_byte (b3 ++ b2) b1
  have h3 := toNat_append_byte (b3 ++ b2 ++ b1) b0
  simp only [leVal]
  omega

theorem leVal_eight (b0 b1 b2 b3 b4 b5 b6 b7 : Byte) : leVal [b0, b1, b2, b3, b4, b5, b6, b7] =
    (b7 ++ b6 ++ b5 ++ b4 ++ b3 ++ b2 ++ b1 ++ b0).toNat := by
  have h1 := toNat_append_byte b7 b6
  have h2 := toNat_append_byte (b7 ++ b6) b5
  have h3 := toNat_append_byte (b7 ++ b6 ++ b5) b4
  have h4 := toNat_append_byte (b7 ++ b6 ++ b5 ++ b4) b3
  have h5 := toNat_append_byte (b7 ++ b6 ++ b5 ++ b4 ++ b3) b2
  have h6 := toNat_append_byte (b7 ++ b6 ++ b5 ++ b4 ++ b3 ++ b2) b1
  have h7 := toNat_append_byte (b7 ++ b6 ++ b5 ++ b4 ++ b3 ++ b2 ++ b1) b0
  simp only [leVal]
  omega

theorem leVal_lt (s : Bytes) : leVal s < 256 ^ s.length := by
  induction s with
  | nil => simp [leVal]
  | cons b s ih =>
    have := b.isLt
    simp only [leVal, List.length_cons, Nat.pow_succ]
    omega

theorem ofNat_leVal_two (b0 b1 : Byte) : BitVec.ofNat 16 (leVal [b0, b1]) = b1 ++ b0 := by
  rw [leVal_two]
  exact BitVec.eq_of_toNat_eq (Nat.mod_eq_of_lt (b1 ++ b0).isLt)

theorem ofNat_leVal_four (b0 b1 b2 b3 : Byte) :
    BitVec.ofNat 32 (leVal [b0, b1, b2, b3]) = b3 ++ b2 ++ b1 ++ b0 := by
  rw [leVal_four]
  exact BitVec.eq_of_toNat_eq (Nat.mod_eq_of_lt (b3 ++ b2 ++ b1 ++ b0).isLt)

/-- The 48-bit timestamp of its six bytes. -/
theorem timestamp_six (b0 b1 b2 b3 b4 b5 : Byte) :
    BitVec.ofNat 48 (leVal [b4, b5] * 2 ^ 32 + leVal [b0, b1, b2, b3]) =
      b5 ++ b4 ++ b3 ++ b2 ++ b1 ++ b0 := by
  have h1 := toNat_append_byte b5 b4
  have h2 := toNat_append_byte (b5 ++ b4) b3
  have h3 := toNat_append_byte (b5 ++ b4 ++ b3) b2
  have h4 := toNat_append_byte (b5 ++ b4 ++ b3 ++ b2) b1
  have h5 := toNat_append_byte (b5 ++ b4 ++ b3 ++ b2 ++ b1) b0
  apply BitVec.eq_of_toNat_eq
  rw [h5, h4, h3, h2, h1]
  simp only [leVal, BitVec.toNat_ofNat]
  omega


/-- The 64-bit value of two 32-bit words, as its eight bytes. -/
theorem append_four (x b3 b2 b1 b0 : Byte) (y : BitVec 24) :
    (y ++ x) ++ (b3 ++ b2 ++ b1 ++ b0) = (y ++ x) ++ b3 ++ b2 ++ b1 ++ b0 := by
  apply BitVec.eq_of_toNat_eq
  have h1 := toNat_append_byte b3 b2
  have h2 := toNat_append_byte (b3 ++ b2) b1
  have h3 := toNat_append_byte (b3 ++ b2 ++ b1) b0
  have g0 := toNat_append_byte (y ++ x) b3
  have g1 := toNat_append_byte ((y ++ x) ++ b3) b2
  have g2 := toNat_append_byte ((y ++ x) ++ b3 ++ b2) b1
  have g3 := toNat_append_byte ((y ++ x) ++ b3 ++ b2 ++ b1) b0
  have := BitVec.toNat_append (y ++ x) (b3 ++ b2 ++ b1 ++ b0)
  rw [← Nat.shiftLeft_add_eq_or_of_lt (b3 ++ b2 ++ b1 ++ b0).isLt, Nat.shiftLeft_eq] at this
  omega

end Sys2Proof
end

