-- ==== Sys2Proof/Laws/Frames.lean ====
section
/-! SUPPORT. Runs of fed bytes: the bytes of a header or of a payload before its last byte are only written to
`BUF`, and a byte string written there is read back. -/

namespace Sys2Proof.Machine

/-- Consecutive bytes written at rising addresses. -/
def Mem.writeAll (m : Mem) (a : Nat) : Bytes → Mem
  | [] => m
  | b :: bs => Mem.writeAll (Mem.write m a b) (a + 1) bs

theorem Mem.writeAll_append (m : Mem) (a : Nat) (bs cs : Bytes) :
    Mem.writeAll m a (bs ++ cs) = Mem.writeAll (Mem.writeAll m a bs) (a + bs.length) cs := by
  induction bs generalizing m a with
  | nil => rfl
  | cons b bs ih =>
    have : a + (bs.length + 1) = a + 1 + bs.length := by omega
    simp only [List.cons_append, Mem.writeAll, ih, List.length_cons, this]

theorem Mem.read_writeAll (m : Mem) (a x : Nat) (bs : Bytes) :
    Mem.read (Mem.writeAll m a bs) x =
      if h : a ≤ x ∧ x < a + bs.length then bs[x - a]'(by omega) else Mem.read m x := by
  induction bs generalizing m a with
  | nil =>
    rw [Mem.writeAll, dif_neg]
    simp only [List.length_nil]
    omega
  | cons b bs ih =>
    rw [Mem.writeAll, ih]
    by_cases h1 : a + 1 ≤ x ∧ x < a + 1 + bs.length
    · have h2 : a ≤ x ∧ x < a + (b :: bs).length := by
        simp only [List.length_cons]
        omega
      rw [dif_pos h1, dif_pos h2]
      have h3 : x - a = (x - (a + 1)) + 1 := by omega
      simp only [h3, List.getElem_cons_succ]
    · rw [dif_neg h1, Mem.read_write]
      by_cases h4 : x = a
      · subst h4
        simp
      · have h2 : ¬(a ≤ x ∧ x < a + (b :: bs).length) := by
          simp only [List.length_cons]
          omega
        rw [if_neg h4, dif_neg h2]

/-- A byte string written at an address is read back from it. -/
theorem Mem.readBytes_writeAll (m : Mem) (a : Nat) (bs : Bytes) :
    Mem.readBytes (Mem.writeAll m a bs) a bs.length = bs := by
  apply List.ext_getElem
  · simp
  · intro i h1 h2
    simp only [Mem.readBytes, List.getElem_map, List.getElem_range, Mem.read_writeAll]
    rw [dif_pos ⟨by omega, by omega⟩]
    simp

theorem Mem.readBytes_append (m : Mem) (a n k : Nat) :
    Mem.readBytes m a (n + k) = Mem.readBytes m a n ++ Mem.readBytes m (a + n) k := by
  simp [Mem.readBytes, List.range_add, List.map_append, Function.comp_def, Nat.add_assoc]

/-- The first bytes of what was written. -/
theorem Mem.readBytes_writeAll_prefix (m : Mem) (a : Nat) (bs cs : Bytes) :
    Mem.readBytes (Mem.writeAll m a (bs ++ cs)) a bs.length = bs := by
  have h := Mem.readBytes_writeAll m a (bs ++ cs)
  rw [List.length_append, Mem.readBytes_append] at h
  exact (List.append_inj h (by simp)).1

/-- The last bytes of what was written. -/
theorem Mem.readBytes_writeAll_suffix (m : Mem) (a : Nat) (bs cs : Bytes) :
    Mem.readBytes (Mem.writeAll m a (bs ++ cs)) (a + bs.length) cs.length = cs := by
  have h := Mem.readBytes_writeAll m a (bs ++ cs)
  rw [List.length_append, Mem.readBytes_append] at h
  exact (List.append_inj h (by simp)).2

namespace State

/-- The state after bytes that complete nothing. -/
def accumulateAll (bs : Bytes) (s : State) : State :=
  { s with buf := Mem.writeAll s.buf s.bufLen.toNat bs, bufLen := s.bufLen + BitVec.ofNat 17 bs.length }

/-- FEED* of two byte strings is the FEED* of the first, then of the second. -/
theorem feedAll_append (bs cs : Bytes) (s : State) {xs ys : List Bool} {t u : State}
    (h : s.feedAll bs = .ok (xs, t)) (g : t.feedAll cs = .ok (ys, u)) :
    s.feedAll (bs ++ cs) = .ok (xs ++ ys, u) := by
  induction bs generalizing s xs with
  | nil =>
    simp only [feedAll, Except.ok.injEq, Prod.mk.injEq] at h
    obtain ⟨rfl, rfl⟩ := h
    simpa using g
  | cons b bs ih =>
    simp only [feedAll] at h
    split at h
    · cases h
    · rename_i c v hv
      split at h
      · cases h
      · rename_i zs w hw
        simp only [Except.ok.injEq, Prod.mk.injEq] at h
        obtain ⟨rfl, rfl⟩ := h
        simp only [List.cons_append, feedAll, hv, ih v hw]

theorem accumulate_bufLen_toNat {s : State} (b : Byte) (h : s.bufLen.toNat < 65549) :
    (s.accumulate b).bufLen.toNat = s.bufLen.toNat + 1 := by
  simp only [accumulate]
  have : (s.bufLen + 1).toNat = (s.bufLen.toNat + 1) % 2 ^ 17 := by simp
  rw [this, Nat.mod_eq_of_lt (by omega)]

theorem frameMax_le (c : Cfg) : c.frameMax ≤ 65549 := by
  unfold Cfg.frameMax
  split <;> simp

/-- A byte of a frame that completes neither the header nor the frame. -/
theorem feedByte_middle {s : State} (b : Byte) (ha : s.asm ≠ .idle) (hm : s.bufLen.toNat < s.cfg.frameMax)
    (hh : s.asm = .hdr → s.bufLen.toNat + 1 ≠ 13) (hp : s.asm = .pay → s.bufLen.toNat + 1 ≠ s.expLen.toNat) :
    s.feedByte b = .ok (true, s.accumulate b) := by
  have hl := accumulate_bufLen_toNat b (Nat.lt_of_lt_of_le hm (frameMax_le s.cfg))
  rw [feedByte_inFrame b ha hm]
  rcases afterByte_cases (s.accumulate b) with ⟨h, _⟩ | ⟨x, y, _, h⟩ | ⟨x, y, _, _, h⟩ | ⟨x, y, _, _, h⟩ | ⟨x, y, h⟩
  · rw [h]
  · exact absurd (by rw [← hl, y]; rfl) (hh x)
  · exact absurd (by rw [← hl, y]; rfl) (hh x)
  · exact absurd (by rw [← hl, y]; rfl) (hh x)
  · exact absurd (by rw [← hl, y]; rfl) (hp x)

/-- A run of bytes that ends before the header or the frame is complete is only written to `BUF`. -/
theorem feedAll_middle {s : State} (bs : Bytes) (ha : s.asm ≠ .idle)
    (hm : s.bufLen.toNat + bs.length ≤ s.cfg.frameMax)
    (hh : s.asm = .hdr → s.bufLen.toNat + bs.length < 13)
    (hp : s.asm = .pay → s.bufLen.toNat + bs.length < s.expLen.toNat) :
    s.feedAll bs = .ok (List.replicate bs.length true, s.accumulateAll bs) := by
  induction bs generalizing s with
  | nil => simp [feedAll, accumulateAll, Mem.writeAll]
  | cons b bs ih =>
    simp only [List.length_cons] at hm hh hp
    have hf := frameMax_le s.cfg
    have hl := accumulate_bufLen_toNat (s := s) b (by omega)
    have h1 := feedByte_middle b ha (by omega) (fun h => by have := hh h; omega) (fun h => by have := hp h; omega)
    have h2 := ih (s := s.accumulate b) ha (by rw [hl]; simpa using by omega)
      (fun h => by have := hh h; omega)
      (fun h => by have := hp h; rw [hl]; simpa using by omega)
    have h3 : (s.accumulate b).accumulateAll bs = s.accumulateAll (b :: bs) := by
      have e : s.bufLen + 1 + BitVec.ofNat 17 bs.length = s.bufLen + BitVec.ofNat 17 (bs.length + 1) := by
        rw [BitVec.ofNat_add, BitVec.add_assoc, BitVec.add_comm 1]
        rfl
      simp only [accumulateAll, hl, Mem.writeAll, List.length_cons]
      simp only [accumulate, e]
    simp only [feedAll, h1, h2, h3, List.length_cons, List.replicate_succ]

end State

end Sys2Proof.Machine
end

