-- ==== Sys2Proof/Laws/Step.lean ====
section
/-! SUPPORT. What an instruction and a step can do, said once: every instruction feeds one byte, feeds a byte
string, drains a FIFO, resets, or works on the local variables alone. -/

namespace Sys2Proof.Machine

/-- What an instruction can do. -/
theorem exec_cases (i : Instr) (s : State) :
    (∃ b, exec i s = s.feedOutcome b) ∨ (∃ bs, exec i s = s.feedAllOutcome bs) ∨
    (exec i s = .next (s.clearDecoded.setResult (.decoded s.decFifo (recordsText s.decFifo)))) ∨
    (exec i s = .next (s.clearErrors.setResult (.errors s.errFifo (s.errFifo.map condText)))) ∨
    (exec i s = .next (s.resetRegs.setResult .none)) ∨ (∃ f, exec i s = s.runWork f) := by
  cases i
  case feed b => exact .inl ⟨b, rfl⟩
  case idleStartMagic => exact .inl ⟨_, rfl⟩
  case idleRaw b => exact .inl ⟨b, rfl⟩
  case frameByte b => exact .inl ⟨b, rfl⟩
  case baseFrame f => exact .inr (.inl ⟨_, rfl⟩)
  case extFrame f => exact .inr (.inl ⟨_, rfl⟩)
  case takeDecoded => exact .inr (.inr (.inl rfl))
  case takeErrors => exact .inr (.inr (.inr (.inl rfl)))
  case reset => exact .inr (.inr (.inr (.inr (.inl rfl))))
  all_goals exact .inr (.inr (.inr (.inr (.inr ⟨_, rfl⟩))))

/-- A property that every single operation keeps, every instruction keeps. -/
theorem exec_induct {P : State → Prop}
    (feed : ∀ (s t : State) b c, P s → s.feedByte b = .ok (c, t) → P t)
    (result : ∀ (s : State) r, P s → P (s.setResult r))
    (decoded : ∀ s : State, P s → P s.clearDecoded) (errors : ∀ s : State, P s → P s.clearErrors)
    (reset : ∀ s : State, P s → P s.resetRegs) (work : ∀ (s : State) w, P s → P (s.setWork w))
    {i : Instr} {s t : State} (hs : P s) (h : exec i s = .next t) : P t := by
  rcases exec_cases i s with ⟨b, e⟩ | ⟨bs, e⟩ | e | e | e | ⟨f, e⟩ <;> rw [e] at h
  · obtain ⟨c, u, hu, rfl⟩ := State.feedOutcome_next h
    exact result _ _ (feed _ _ _ _ hs hu)
  · obtain ⟨cs, u, hu, rfl⟩ := State.feedAllOutcome_next h
    exact result _ _ (State.feedAll_induct feed bs s u cs hs hu)
  · injection h with h
    exact h ▸ result _ _ (decoded _ hs)
  · injection h with h
    exact h ▸ result _ _ (errors _ hs)
  · injection h with h
    exact h ▸ result _ _ (reset _ hs)
  · injection h with h
    exact h ▸ result _ _ (work _ _ hs)

/-- What a step that answers a next state can do: nothing, or the instruction it fetched. -/
theorem step_cases {s t : State} (h : step s = .next t) :
    (s.issue = [] ∧ t = s) ∨
    ∃ w rest i, s.issue = w :: rest ∧ decode s.cfg w = .ok i ∧ exec i (s.setIssue rest) = .next t := by
  simp only [step, State.fetch] at h
  cases hq : s.issue with
  | nil =>
    simp only [hq] at h
    injection h with h
    exact .inl ⟨rfl, h.symm⟩
  | cons w rest =>
    simp only [hq, State.runFetched] at h
    split at h
    · exact .inr ⟨w, rest, _, rfl, by assumption, h⟩
    · cases h

end Sys2Proof.Machine
end

