-- ==== Sys2Proof/Tests/Slice0.lean ====
section
/-! SUPPORT. Tests: ill-formed instructions that WellFormed refuses, the words of 30_encoding.md decoded, one
step of each instruction on the examples of the rules and of 95_test_vectors.md, and a state that meets the
hypotheses of each statement that has some. -/

namespace Sys2Proof.Tests

-- One theorem after another: many waiting at once would each hold a thread.
set_option Elab.async false

open Sys2Proof.Machine

/-! ### Helpers -/

/-- Bytes written from an address on. -/
def cells : Nat → Bytes → Mem
  | _, [] => []
  | a, b :: bs => (a, b) :: cells (a + 1) bs

/-- An assembler state with these bytes of the frame in progress. -/
def assembling (c : Cfg) (asm : AsmState) (exp : BitVec 17) (bs : Bytes) : State :=
  { State.constructed c with asm := asm, expLen := exp, buf := cells 0 bs, bufLen := BitVec.ofNat 17 bs.length }

/-- An Extended instance with the function table of 95_test_vectors.md. -/
def extCfg : Cfg :=
  { Cfg.default with variant := .extended,
                     fnTable := [ascii ['m', 'a', 'i', 'n'], ascii ['i', 'd', 'l', 'e']] }

/-- The state in the middle of a Base extraction: a payload without literal for `n` slots, at slot 0. -/
def baseState (n : Nat) (payload : Bytes) : State :=
  { State.reset with work := { Work.idle with
      frame := { FrameRec.blank .base with nparam := BitVec.ofNat 3 n, litLen := some 0, payload := payload },
      cur := (n + 1) / 2 + 4 * n } }

/-- The state in the middle of a template scan: a payload, read from its first byte. -/
def extState (ts : Timestamp) (payload : Bytes) : State :=
  { State.constructed extCfg with work := { Work.idle with
      frame := { FrameRec.blank .extended with strIndex := some 0, ts := ts, payload := payload } } }

/-- The local variables after an instruction. -/
def workAfter (i : Instr) (s : State) : Option Work :=
  match exec i s with
  | .next t => some t.work
  | .fault _ => none
  | .refused _ => none

/-- The items of a Base record after an instruction. -/
def itemsAfter (i : Instr) (s : State) : Option (List BaseItem) := (workAfter i s).map fun w => w.frame.items

/-- The texts of those items. -/
def textsAfter (i : Instr) (s : State) : Option (List Bytes) :=
  (itemsAfter i s).map fun its => its.map (itemText s.cfg)

/-- The text of the record and the parameter cursor after an instruction. -/
def textAfter (i : Instr) (s : State) : Option (Bytes × Nat) :=
  (workAfter i s).map fun w => (w.frame.text, w.pc)

/-- The state after an instruction. -/
def after (i : Instr) (s : State) : State :=
  match exec i s with
  | .next t => t
  | .fault _ => s
  | .refused _ => s

/-- No flags, width, precision or length. -/
def plain : IntSpec := ⟨[], [], none, .absent⟩

/-- The 12 header bytes of V1 and its CRC byte 0x21 (95_test_vectors.md). -/
def v1Header : Bytes :=
  [0xC0#8, 0x00#8, 0x01#8, 0x00#8, 0x0C#8, 0x22#8, 0x38#8, 0x4E#8, 0x5A#8, 0x0C#8, 0x00#8, 0x00#8]

/-- The frame of V1. -/
def v1Frame : BaseFrame :=
  { ctl := 0, channel := 1, litLen := 0, ts := 13581998891532#48, payLen := 0, crc := 0x21#8, payload := [],
    trailer := none }

/-- The header bytes of A4 without the CRC byte 0xCC (95_test_vectors.md). -/
def a4Header : Bytes :=
  [0xC0#8, 0x20#8, 0x00#8, 0x00#8, 0x05#8, 0x00#8, 0x00#8, 0x00#8, 0x00#8, 0x00#8, 0x01#8, 0x00#8]

/-- The frame of V3 without its trailer. -/
def v3Bytes : Bytes :=
  [0xC0#8, 0x20#8, 0x00#8, 0x03#8, 0x40#8, 0x42#8, 0x0F#8, 0x00#8, 0x00#8, 0x00#8, 0x08#8, 0x00#8, 0x15#8,
   0x5B#8, 0x24#8, 0x5D#8, 0x01#8, 0xFF#8, 0xFF#8, 0xFF#8, 0xFF#8]

/-- The tracker registers V1 ends with. -/
def afterV1 : State :=
  { State.reset with seqValid := true, nextSeq := 1, lastTs := 13581998891532#48 }

/-- `ext param` (V6). -/
def v6Param : Bytes := [0x65#8, 0x78#8, 0x74#8, 0x20#8, 0x70#8, 0x61#8, 0x72#8, 0x61#8, 0x6D#8]

/-- The frame of V6. -/
def v6Frame : ExtFrame :=
  { ctl := 0, channel := 0, strIndex := 2, ts := 1000000, payLen := 14, crc := 0x5C#8,
    payload := v6Param ++ [0x00#8, 0xE6#8, 0x00#8, 0x00#8, 0x00#8], trailer := some 0xC1#8 }

/-- The instance of V6. -/
def v6Cfg : Cfg :=
  { extCfg with stringTable := [[], [],
      ascii ['s', 't', 'r', 'i', 'n', 'g', ' ', '%', 's', ' ', '%', 'd']] }

/-- A state with two records and two conditions waiting. -/
def queued : State :=
  { State.reset with
    decFifo := [{ FrameRec.blank .base with litLen := some 0, text := [0x41#8] },
                { FrameRec.blank .base with litLen := some 0, text := [0x42#8] }],
    errFifo := [.missingPackets 0 1, .senderDropped] }

/-- A record with the items -1 and 7, before its text. -/
def twoItems : State :=
  { State.reset with work := { Work.idle with
      frame := { FrameRec.blank .base with items := [.s32 (-1), .u32 7] } } }

/-! ### WellFormed -/

theorem test_wf_idleRaw : (Instr.idleRaw 0xC0#8).wf Cfg.default = false := by decide
theorem test_wf_baseFrame_length : (Instr.baseFrame { v1Frame with payload := [1#8] }).wf Cfg.default = false := by
  decide
theorem test_wf_baseFrame_trailer :
    (Instr.baseFrame { v1Frame with trailer := some 0xC1#8 }).wf Cfg.default = false := by decide
theorem test_wf_extFrame :
    (Instr.extFrame ⟨0, 0, 0, 0, 0, 0, [1#8], none⟩).wf extCfg = false ∧
    (Instr.extFrame ⟨0, 0, 0, 0, 1, 0, [1#8], none⟩).wf extCfg = false := by decide
theorem test_wf_fmt64Invalid :
    ∀ n ∈ [1#4, 2#4, 3#4, 4#4], (Instr.fmt64Invalid n).wf Cfg.default = false := by decide
theorem test_wf_errFileLine : (Instr.errFileLine 0 0 0).wf Cfg.default = false := by decide
theorem test_wf_errPair :
    (Instr.errPair 0 0).wf { Cfg.default with errCode2 := { ErrCode2Layout.decided with pairSubtype := 1 } } =
      false := by decide
theorem test_wf_errReserved :
    (Instr.errReserved 0 0).wf Cfg.default = false ∧
    (Instr.errReserved 1 0).wf { Cfg.default with errCode2 := { ErrCode2Layout.decided with rawLo := 1 } } =
      false := by decide
theorem test_wf_litByte :
    (Instr.litByte 0x24#8).wf Cfg.default = false ∧ (Instr.litByte 0x25#8).wf Cfg.default = false := by decide
theorem test_wf_xInt_width :
    (Instr.xIntD { plain with width := [0] } []).wf Cfg.default = false ∧
    (Instr.xStr ⟨[], [0]⟩ []).wf Cfg.default = false ∧ (Instr.xStrFn ⟨[], [0]⟩ []).wf Cfg.default = false := by
  decide
theorem test_wf_xInt_z :
    ∀ i ∈ [Instr.xIntD { plain with len := .z } [], .xIntU { plain with len := .z } [],
      .xIntX { plain with len := .z } [], .xIntXU { plain with len := .z } [], .xIntC { plain with len := .z } [],
      .xLenZ plain .dec []], i.wf Cfg.default = false := by decide
theorem test_wf_xInt_fixed :
    ∀ i ∈ [Instr.xIntD { plain with width := [8], prec := some [2] } [],
      .xIntU { plain with width := [8], prec := some [2] } [],
      .xIntX { plain with width := [8], prec := some [2] } [],
      .xIntXU { plain with width := [8], prec := some [2] } [],
      .xIntC { plain with width := [8], prec := some [2] } [],
      .xLenZ { plain with width := [8], prec := some [2], len := .z } .dec [], .xIntFixed plain .dec []],
      i.wf Cfg.default = false := by decide
theorem test_wf_xUnprocessed : (Instr.xUnprocessed [0x64#8]).wf Cfg.default = false := by decide

/-! ### Decoding: words written out from the tables of 30_encoding.md -/

/-- R55. -/
theorem test_decode_hostop :
    decode Cfg.default (.hostop 0b0011000000#10) = .ok (.feed 0xC0#8) ∧
    decode Cfg.default (.hostop 0b0100000000#10) = .ok (.takeDecoded 0) ∧
    decode Cfg.default (.hostop 0b1011111111#10) = .ok (.takeErrors 0xFF#8) ∧
    decode Cfg.default (.hostop 0b1100000000#10) = .ok (.reset 0) := by decide
/-- 40_frame_assembler.md R71, R72; 0xC0 starts no frame of an Extended instance. -/
theorem test_decode_byte_classes :
    decode Cfg.default (.idleByte 0b11000000#8) = .ok .idleStartMagic ∧
    decode Cfg.default (.idleByte 0b11000001#8) = .ok (.idleRaw 0xC1#8) ∧
    decode extCfg (.idleByte 0b11000010#8) = .ok .idleStartMagic ∧
    decode extCfg (.idleByte 0b11000000#8) = .ok (.idleRaw 0xC0#8) ∧
    decode Cfg.default (.frameByte 0b11000010#8) = .ok (.frameByte 0xC2#8) := by decide
/-- R57: the bytes of V1. -/
theorem test_decode_baseFrame : decode Cfg.default (.frame (v1Header ++ [0x21#8])) = .ok (.baseFrame v1Frame) := by
  decide
/-- R58, R60: offsets 3 and 4 are the string index, 5 to 10 the timestamp, 11 the length; then one payload
byte and the trailer. -/
theorem test_decode_extFrame :
    decode extCfg (.frame [0xC2#8, 0x35#8, 0x07#8, 0x02#8, 0x01#8, 0x60#8, 0xE3#8, 0x16#8, 0x00#8, 0x03#8, 0x04#8,
      0x01#8, 0x99#8, 0xAA#8, 0xC1#8]) =
      .ok (.extFrame ⟨0x35, 0x07, 0x0102, 0x04030016E360#48, 1, 0x99, [0xAA#8], some 0xC1#8⟩) := by decide
theorem test_decode_frame_rejects :
    decode Cfg.default (.frame [0xC1#8]) = .error .frameStartMagic ∧
    decode Cfg.default (.frame [0xC0#8]) = .error .frameShort ∧
    decode Cfg.default (.frame (v1Header ++ [0x21#8, 0xC1#8])) = .error .frameLength := by decide
/-- R56: nparam 1, dropped 1, seq 5. -/
theorem test_decode_ctl : decode Cfg.default (.ctl 0b00110101#8) = .ok (.ctl 1 true 5) := by decide
/-- R63. -/
theorem test_decode_fmt4 :
    decode Cfg.default (.fmt4 0b0000#4) = .ok .fmtDone ∧ decode Cfg.default (.fmt4 0b0001#4) = .ok .fmtS32 ∧
    decode Cfg.default (.fmt4 0b0010#4) = .ok .fmtU32 ∧ decode Cfg.default (.fmt4 0b0011#4) = .ok .fmtHex32 ∧
    decode Cfg.default (.fmt4 0b0100#4) = .ok .fmtChar ∧ decode Cfg.default (.fmt4 0b0101#4) = .ok .fmtErrcode ∧
    decode Cfg.default (.fmt4 0b0110#4) = .ok .fmtString ∧ decode Cfg.default (.fmt4 0b0111#4) = .ok .fmtExt64 ∧
    decode Cfg.default (.fmt4 0b1000#4) = .ok .fmtBad8 ∧ decode Cfg.default (.fmt4 0b1001#4) = .ok .fmtBad9 ∧
    decode Cfg.default (.fmt4 0b1010#4) = .ok .fmtBad10 ∧ decode Cfg.default (.fmt4 0b1011#4) = .ok .fmtBad11 ∧
    decode Cfg.default (.fmt4 0b1100#4) = .ok .fmtStruct ∧ decode Cfg.default (.fmt4 0b1101#4) = .ok .fmtStrbuf ∧
    decode Cfg.default (.fmt4 0b1110#4) = .ok .fmtBytes ∧ decode Cfg.default (.fmt4 0b1111#4) = .ok .fmtWords := by
  decide
/-- R64. -/
theorem test_decode_fmt64 :
    decode Cfg.default (.fmt64 0b0111#4 (some 0b0001#4)) = .ok .fmt64S64 ∧
    decode Cfg.default (.fmt64 0b0111#4 (some 0b0010#4)) = .ok .fmt64U64 ∧
    decode Cfg.default (.fmt64 0b0111#4 (some 0b0011#4)) = .ok .fmt64Hex64 ∧
    decode Cfg.default (.fmt64 0b0111#4 (some 0b0100#4)) = .ok .fmt64Time ∧
    decode Cfg.default (.fmt64 0b0111#4 (some 0b0000#4)) = .ok (.fmt64Invalid 0) ∧
    decode Cfg.default (.fmt64 0b0111#4 (some 0b1111#4)) = .ok (.fmt64Invalid 15) ∧
    decode Cfg.default (.fmt64 0b0111#4 none) = .ok .fmtExt64Last ∧
    decode Cfg.default (.fmt64 0b0110#4 none) = .error .notExt64Prefix := by decide
/-- R66 and the examples of 42_base_extractor.md R115. -/
theorem test_decode_errw :
    decode Cfg.default (.errw 0#32) = .ok .errNone ∧
    decode Cfg.default (.errw 0x00A81207#32) = .ok (.errFileLine 21 18 7) ∧
    decode Cfg.default (.errw 0x40A81207#32) = .ok (.errFileInst 21 18 7) ∧
    decode Cfg.default (.errw 0x40000000#32) = .ok (.errFileInst 0 0 0) ∧
    decode Cfg.default (.errw 0b10001010101111000001001000110100#32) = .ok (.errPair 0xABC 0x1234) ∧
    decode Cfg.default (.errw 0b10110000000000000000000000000001#32) = .ok (.errReserved 3 1) ∧
    decode Cfg.default (.errw 0xC0000000#32) = .ok (.errLegacy 0) ∧
    decode Cfg.default (.errw 0xFFFFFFFF#32) = .ok (.errLegacy 0x3FFFFFFF) := by decide
/-- R67. -/
theorem test_decode_blit :
    decode Cfg.default (.blit [0x24#8]) = .ok .litSubst ∧
    decode Cfg.default (.blit [0x25#8, 0x24#8]) = .ok (.litEscape (some 0x24#8)) ∧
    decode Cfg.default (.blit [0x25#8]) = .ok (.litEscape none) ∧
    decode Cfg.default (.blit [0x5B#8]) = .ok (.litByte 0x5B#8) ∧
    decode Cfg.default (.blit []) = .error .literalWord ∧
    decode Cfg.default (.blit [0x41#8, 0x42#8]) = .error .literalWord := by decide
/-- R68: `%d!`, `-08lld`, `u`, `.3x`, `X`, `c`, `zu`, `8.2d`. -/
theorem test_decode_int :
    decode extCfg (.xspec (ascii ['d', '!']) none) = .ok (.xIntD plain [0x21#8]) ∧
    decode extCfg (.xspec (ascii ['-', '0', '8', 'l', 'l', 'd']) none) =
      .ok (.xIntD ⟨[.minus, .zero], [8], none, .ll⟩ []) ∧
    decode extCfg (.xspec (ascii ['u']) none) = .ok (.xIntU plain []) ∧
    decode extCfg (.xspec (ascii ['.', '3', 'x']) none) = .ok (.xIntX ⟨[], [], some [3], .absent⟩ []) ∧
    decode extCfg (.xspec (ascii ['X']) none) = .ok (.xIntXU plain []) ∧
    decode extCfg (.xspec (ascii ['c']) none) = .ok (.xIntC plain []) ∧
    decode extCfg (.xspec (ascii ['z', 'u']) none) = .ok (.xLenZ { plain with len := .z } .unsigned []) ∧
    decode extCfg (.xspec (ascii ['8', '.', '2', 'd']) none) =
      .ok (.xIntFixed ⟨[], [8], some [2], .absent⟩ .dec []) := by decide
/-- R68, 44_extended_extractor.md R167: a run in the trailing text makes fixed point; `%.2d` is none. -/
theorem test_decode_fixed_in_rest :
    decode extCfg (.xspec (ascii ['d', ' ', '1', '.', '5']) none) =
      .ok (.xIntFixed plain .dec (ascii [' ', '1', '.', '5'])) ∧
    decode extCfg (.xspec (ascii ['.', '2', 'd']) none) = .ok (.xIntD ⟨[], [], some [2], .absent⟩ []) := by decide
/-- R68: the other grammars; a single `l`, `q` and the empty token match none (R179). -/
theorem test_decode_other_tokens :
    decode extCfg (.xspec (ascii ['%', '!']) none) = .ok (.xEscape [0x21#8]) ∧
    decode extCfg (.xspec (ascii ['s', ' ']) (some 0x65#8)) = .ok (.xStr ⟨[], []⟩ [0x20#8]) ∧
    decode extCfg (.xspec (ascii ['s']) (some 0xFF#8)) = .ok (.xStrFn ⟨[], []⟩ []) ∧
    decode extCfg (.xspec (ascii ['p', 'P']) none) = .ok (.xPtrP []) ∧
    decode extCfg (.xspec (ascii ['p', 'T']) none) = .ok (.xPtrT []) ∧
    decode extCfg (.xspec (ascii ['p', 'h', '!']) none) = .ok (.xPtrH [0x21#8]) ∧
    decode extCfg (.xspec (ascii ['l', 'x']) none) = .ok (.xUnprocessed (ascii ['l', 'x'])) ∧
    decode extCfg (.xspec [] none) = .ok (.xUnprocessed []) ∧
    decode extCfg (.xmarker (ascii ['@', 'T'])) = .ok .xTsMarker ∧
    decode extCfg (.xmarker (ascii ['@'])) = .error .notTheMarker ∧
    decode extCfg (.reconfigure Cfg.default) = .error .configurationFixed := by decide
/-- The table's numbering: a format code, a code pair, an operation word, an error-code word. -/
theorem test_decode_table_words :
    decodeTableWord 8 0x06 = some .fmtString ∧ decodeTableWord 8 0x74 = some .fmt64Time ∧
    decodeTableWord 8 0x24 = some .litSubst ∧ decodeTableWord 16 0x100 = some (.takeDecoded 0) ∧
    decodeTableWord 32 0x00A81207 = some (.errFileLine 21 18 7) := by decide +kernel

/-! ### One step: the host operations and the assembler -/

/-- 95_test_vectors.md A1, A2, R71: a raw byte, the trailer byte and the other variant's magic are not
consumed; the start magic is stored at offset 0. -/
theorem test_feed_idle :
    (∀ b ∈ [0x41#8, 0xC1#8, 0xC2#8],
      (after (.feed b) State.reset).result = .consumed false ∧ (after (.feed b) State.reset).asm = .idle) ∧
    (after (.feed 0xC0#8) State.reset).asm = .hdr ∧ (after (.feed 0xC0#8) State.reset).bufLen = 1 ∧
    (after (.feed 0xC0#8) State.reset).buf = [(0, 0xC0#8)] := by decide
/-- A1 and A10, by their rows. -/
theorem test_idle_rows :
    (after (.idleRaw 0x41#8) State.reset).result = .consumed false ∧
    (after (.idleRaw 0xC0#8) (State.constructed extCfg)).asm = .idle ∧
    (after .idleStartMagic (State.constructed extCfg)).buf = [(0, 0xC2#8)] := by decide
/-- R72: a magic byte inside the header is data. -/
theorem test_frameByte :
    (after (.frameByte 0xC0#8) (assembling Cfg.default .hdr 0 [0xC0#8, 0x20#8])).buf =
      [(0, 0xC0#8), (1, 0x20#8), (2, 0xC0#8)] ∧
    (after (.frameByte 0xC0#8) (assembling Cfg.default .hdr 0 [0xC0#8, 0x20#8])).result = .consumed true := by
  decide
/-- The last byte of V1's header; of A3, whose CRC is wrong; of A4, which declares one payload byte; and V4's
trailer position, which holds 0x00. -/
theorem test_feed_completes :
    (let t := after (.feed 0x21#8) (assembling Cfg.default .hdr 0 v1Header);
      t.asm = .idle ∧ t.nextSeq = 1 ∧ t.lastTs = 13581998891532#48) ∧
    (let t := after (.feed 0x22#8) (assembling Cfg.default .hdr 0 v1Header);
      t.asm = .idle ∧ t.decFifo = [] ∧ t.seqValid = false) ∧
    (let t := after (.feed 0xCC#8) (assembling Cfg.default .hdr 0 a4Header);
      t.asm = .pay ∧ t.bufLen = 13 ∧ t.expLen = 15) ∧
    (let t := after (.feed 0x00#8) (assembling Cfg.default .pay 22 v3Bytes);
      t.errFifo = [.missingEndMagic 0] ∧ t.decFifo.map FrameRec.items = [[.s32 (-1)]]) := by decide +kernel
/-- V1: the whole frame. -/
theorem test_baseFrame_v1 :
    (after (.baseFrame v1Frame) State.reset).decFifo.map FrameRec.text =
      [ascii ['[', '1', '3', '5', '8', '1', '9', '9', '8', '.', '8', '9', '1', '5', '3', '2', '/', 't', '1', ']']] ∧
    (after (.baseFrame v1Frame) State.reset).result = .consumedEach (List.replicate 13 true) := by decide +kernel
/-- V2: the frame again: one gap, and `NEXT_SEQ` is 1. -/
theorem test_baseFrame_v2 :
    (after (.baseFrame v1Frame) afterV1).errFifo = [.missingPackets 0 1] ∧
    (after (.baseFrame v1Frame) afterV1).nextSeq = 1 := by decide +kernel
/-- V6: `string %s %d` with its two parameters. -/
theorem test_extFrame_v6 :
    (after (.extFrame v6Frame) (State.constructed v6Cfg)).decFifo.map FrameRec.text =
      [ascii ['s', 't', 'r', 'i', 'n', 'g', ' ', 'e', 'x', 't', ' ', 'p', 'a', 'r', 'a', 'm', ' ', '2', '3', '0']] ∧
    (after (.extFrame v6Frame) (State.constructed v6Cfg)).decFifo.map FrameRec.extItems =
      [[.str v6Param, .int 4 true 230]] := by decide +kernel
/-- R186: the records' texts are joined; the conditions stay. -/
theorem test_takeDecoded :
    (after (.takeDecoded 0x55#8) queued).result = .decoded queued.decFifo [0x41#8, 0x42#8] ∧
    (after (.takeDecoded 0x55#8) queued).decFifo = [] ∧
    (after (.takeDecoded 0x55#8) queued).errFifo = queued.errFifo := by decide
/-- R187, R201: 60_exceptions.md's text of V2's gap. -/
theorem test_takeErrors :
    (after (.takeErrors 0xFF#8) queued).result = .errors [.missingPackets 0 1, .senderDropped]
      [ascii "(missing packet(s)); got 0 expect 1".toList, ascii "(sender dropped packet(s))".toList] ∧
    (after (.takeErrors 0xFF#8) queued).errFifo = [] := by decide
/-- R230. -/
theorem test_reset :
    (after (.reset 0xFF#8) { queued with asm := .pay, bufLen := 20, expLen := 30, nextSeq := 4, lastTs := 9 }) =
      State.reset := by decide
/-- R56. -/
theorem test_ctl :
    (workAfter (.ctl 1 true 5) State.reset).map (fun w => (w.frame.ctl, w.frame.nparam, w.frame.dropped, w.frame.seq)) =
      some (0x35#8, 1, true, 5) := by decide

/-! ### One step: the Base extractor (42_base_extractor.md, 95_test_vectors.md sections 5 and 6) -/

theorem test_fmtDone :
    (workAfter .fmtDone (baseState 2 [0x10#8, 1, 0, 0, 0, 2, 0, 0, 0])).map (fun w => (w.stop, w.frame.items)) =
      some (true, []) := by decide
theorem test_fmtS32 : itemsAfter .fmtS32 (baseState 1 [0x01#8, 0xFF, 0xFF, 0xFF, 0xFF]) = some [.s32 (-1)] := by decide
theorem test_fmtS32_min :
    itemsAfter .fmtS32 (baseState 1 [0x01#8, 0, 0, 0, 0x80]) = some [.s32 (-2147483648)] := by decide
theorem test_fmtU32 :
    textsAfter .fmtU32 (baseState 1 [0x02#8, 0xE6, 0, 0, 0]) = some [ascii ['2', '3', '0']] := by decide +kernel
theorem test_fmtHex32 :
    textsAfter .fmtHex32 (baseState 1 [0x03#8, 0xEF, 0xBE, 0xAD, 0xDE]) =
      some [ascii ['d', 'e', 'a', 'd', 'b', 'e', 'e', 'f']] := by decide +kernel
theorem test_fmtChar :
    textsAfter .fmtChar (baseState 1 [0x04#8, 0x41, 0x56, 0x34, 0x12]) = some [ascii ['\'', 'A', '\'']] := by
  decide +kernel
theorem test_fmtErrcode :
    itemsAfter .fmtErrcode (baseState 1 [0x05#8, 0x07, 0x12, 0xA8, 0x00]) = some [.err (.fileLine 21 18 7)] ∧
    itemsAfter .fmtErrcode (baseState 1 [0x05#8, 0xCD, 0xAB, 0x23, 0x81]) = some [.err (.pair 0x123 0xABCD)] := by
  decide
theorem test_fmtErrcode_reserved :
    itemsAfter .fmtErrcode (baseState 1 [0x05#8, 0xCD, 0xAB, 0x23, 0x91]) =
      some [.err (.reserved 1 0x123ABCD)] := by decide
theorem test_fmtString :
    itemsAfter .fmtString (baseState 1 [0x06#8, 3, 0, 0, 0, 0x41, 0x42, 0x43]) =
      some [.str [0x41#8, 0x42#8, 0x43#8]] := by decide
theorem test_fmtString_short :
    (workAfter .fmtString (baseState 1 [0x06#8, 4, 0, 0, 0, 0x41, 0x42, 0x43])).map
      (fun w => (w.frame.badLen, w.stop, w.frame.items)) = some (true, true, []) := by decide
theorem test_fmtExt64 :
    itemsAfter .fmtExt64 (baseState 2 [0x27#8, 0xFF, 0xFF, 0xFF, 0xFF, 1, 0, 0, 0]) =
      some [.u64 8589934591#64] := by decide
theorem test_fmtExt64_last_slot :
    itemsAfter .fmtExt64 (baseState 1 [0x07#8, 1, 0, 0, 0]) = some [.badFormat 7] := by decide
theorem test_fmtBad :
    itemsAfter .fmtBad8 (baseState 1 [0x08#8, 0, 0, 0, 0]) = some [.badFormat 8] ∧
    itemsAfter .fmtBad10 (baseState 1 [0x0A#8, 0, 0, 0, 0]) = some [.badFormat 10] ∧
    textsAfter .fmtBad9 (baseState 1 [0x09#8, 0, 0, 0, 0]) = some [ascii "BadFormat9".toList] ∧
    textsAfter .fmtBad11 (baseState 1 [0x0B#8, 0, 0, 0, 0]) = some [ascii "BadFormat11".toList] := by
  decide +kernel
theorem test_fmtStruct :
    textsAfter .fmtStruct (baseState 1 [0x0C#8, 4, 0, 5, 0, 1, 2, 3, 4]) =
      some [ascii "BadStruct#5(4)".toList] := by decide +kernel
theorem test_fmtStruct_sentinel :
    itemsAfter .fmtStruct (baseState 1 [0x0C#8, 0xFF, 0xFF, 5, 0]) = some [.badSize] ∧
    itemsAfter .fmtString (baseState 1 [0x06#8, 0xFF, 0xFF, 0, 0]) = some [.badPtr] := by decide
theorem test_fmtStrbuf :
    textsAfter .fmtStrbuf (baseState 1 [0x0D#8, 2, 0, 0, 0, 0x68, 0x69]) = some [ascii ['h', 'i']] := by decide
theorem test_fmtBytes :
    textsAfter .fmtBytes (baseState 1 [0x0E#8, 3, 0, 0, 0, 0xDE, 0xAD, 0x01]) =
      some [ascii "de ad 01".toList] := by decide +kernel
theorem test_fmtWords :
    textsAfter .fmtWords (baseState 1 [0x0F#8, 8, 0, 0, 0, 0xEF, 0xBE, 0xAD, 0xDE, 1, 0, 0, 0]) =
      some [ascii "deadbeef 00000001".toList] := by decide +kernel
/-- B40: two bytes past the last whole word are taken and not shown. -/
theorem test_fmtWords_rest :
    textsAfter .fmtWords (baseState 1 [0x0F#8, 6, 0, 0, 0, 0xEF, 0xBE, 0xAD, 0xDE, 1, 2]) =
      some [ascii "deadbeef".toList] := by decide +kernel
theorem test_fmt64S64 :
    itemsAfter .fmt64S64 (baseState 2 [0x17#8, 0, 0, 0, 0, 0, 0, 0, 0x80]) =
      some [.s64 (-9223372036854775808)] := by decide
theorem test_fmt64U64 :
    itemsAfter .fmt64U64 (baseState 2 [0x27#8, 0, 0, 0, 0, 0, 0, 0, 0x80]) =
      some [.u64 9223372036854775808#64] := by decide
theorem test_fmt64Hex64 :
    textsAfter .fmt64Hex64 (baseState 2 [0x37#8, 1, 0, 0, 0, 0, 0, 0, 0]) =
      some [ascii "0000000000000001".toList] := by decide +kernel
theorem test_fmt64Time :
    textsAfter .fmt64Time (baseState 2 [0x47#8, 0x60, 0xE3, 0x16, 0, 0, 0, 0, 0]) =
      some [ascii "1.500000".toList] ∧
    textsAfter .fmt64Time (baseState 2 [0x47#8, 0xFF, 0xFF, 0xFF, 0xFF, 0xFF, 0xFF, 0xFF, 0xFF]) =
      some [ascii "(FOREVER)".toList] := by decide +kernel
theorem test_fmt64Invalid :
    textsAfter (.fmt64Invalid 6) (baseState 2 [0x67#8, 5, 0, 0, 0, 6, 0, 0, 0]) =
      some [ascii "BadFormatL6".toList] := by decide +kernel
theorem test_fmtExt64Last :
    textsAfter .fmtExt64Last (baseState 1 [0x07#8, 9, 0, 0, 0]) = some [ascii "BadFormat7".toList] := by
  decide +kernel
theorem test_err_rows :
    itemsAfter .errNone State.reset = some [.err .none] ∧
    itemsAfter (.errFileLine 21 18 7) State.reset = some [.err (.fileLine 21 18 7)] ∧
    itemsAfter (.errFileInst 0 0 0) State.reset = some [.err (.fileInst 0 0 0)] ∧
    itemsAfter (.errPair 0x123 0xABCD) State.reset = some [.err (.pair 0x123 0xABCD)] ∧
    itemsAfter (.errReserved 1 0x123ABCD) State.reset = some [.err (.reserved 1 0x123ABCD)] ∧
    textsAfter (.errLegacy 0x3FFFFFFF) State.reset = some [ascii "3fffffff".toList] ∧
    textsAfter .errNone State.reset = some [ascii "ErrNone".toList] := by decide +kernel

/-! ### One step: the literal (43_base_render.md R146, R147) -/

theorem test_litSubst :
    (workAfter .litSubst twoItems).map (fun w => (w.frame.text, w.nextItem, w.litPos)) =
      some (ascii ['-', '1'], 1, 1) := by decide +kernel
theorem test_litSubst_none_left :
    (workAfter .litSubst State.reset).map (fun w => (w.frame.text, w.nextItem, w.litPos)) = some ([], 0, 1) := by
  decide
theorem test_litEscape :
    (workAfter (.litEscape (some 0x24#8)) twoItems).map (fun w => (w.frame.text, w.nextItem, w.litPos)) =
      some ([0x24#8], 0, 2) ∧
    (workAfter (.litEscape none) twoItems).map (fun w => w.frame.text) = some [] := by decide
theorem test_litByte :
    (workAfter (.litByte 0x5B#8) twoItems).map (fun w => (w.frame.text, w.litPos)) = some ([0x5B#8], 1) := by decide
/-- The text of an empty literal: the items after the prefix, each after a space (A5). -/
theorem test_expand_leftovers :
    (twoItems.work.expand Cfg.default [0x24#8, 0x21#8]).frame.text = ascii ['-', '1', '!', ' ', '7'] := by
  decide +kernel

/-! ### One step: the template (44_extended_extractor.md, 95_test_vectors.md section 7) -/

theorem test_xEscape : textAfter (.xEscape [0x21#8]) (extState 0 []) = some (ascii ['%', '!'], 0) := by decide
theorem test_xIntD :
    textAfter (.xIntD plain [0x21#8]) (extState 0 [0xE6#8, 0, 0, 0]) = some (ascii ['2', '3', '0', '!'], 4) := by
  decide +kernel
theorem test_xIntD_ll :
    textAfter (.xIntD { plain with len := .ll } []) (extState 0 (List.replicate 8 0xFF#8)) =
      some (ascii ['-', '1'], 8) := by decide +kernel
theorem test_xIntU :
    textAfter (.xIntU plain []) (extState 0 (List.replicate 4 0xFF#8)) =
      some (ascii "4294967295".toList, 4) := by decide +kernel
theorem test_xIntX :
    textAfter (.xIntX { plain with flags := [.zero], width := [8] } []) (extState 0 [0xFF#8, 0, 0, 0]) =
      some (ascii "000000ff".toList, 4) := by decide +kernel
theorem test_xIntXU :
    textAfter (.xIntXU plain []) (extState 0 [0xEF#8, 0xBE, 0xAD, 0xDE]) =
      some (ascii "DEADBEEF".toList, 4) := by decide +kernel
theorem test_xIntC : textAfter (.xIntC plain []) (extState 0 [0x41#8, 0, 0, 0]) = some (ascii ['A'], 4) := by
  decide +kernel
theorem test_xIntFixed :
    textAfter (.xIntFixed ⟨[], [8], some [2], .absent⟩ .dec []) (extState 0 [0xE6#8, 0, 0, 0]) =
      some (ascii ['2', '.', '3', '0'], 4) := by decide +kernel
theorem test_xIntFixed_negative :
    textAfter (.xIntFixed ⟨[], [5], some [3], .absent⟩ .dec []) (extState 0 [0x18#8, 0xFC, 0xFF, 0xFF]) =
      some (ascii ['-', '1', '.', '0', '0', '0'], 4) := by decide +kernel
theorem test_xLenZ :
    textAfter (.xLenZ { plain with len := .z } .unsigned []) (extState 0 [0x05#8, 0, 0, 0]) =
      some (ascii ['5'], 4) := by decide +kernel
theorem test_xStr :
    textAfter (.xStr ⟨[], []⟩ [0x20#8]) (extState 0 [0x61#8, 0x62, 0x00, 0x63]) =
      some (ascii ['a', 'b', ' '], 3) := by decide
theorem test_xStrFn :
    textAfter (.xStrFn ⟨[], []⟩ []) (extState 0 [0xFF#8, 1, 0, 0, 0]) = some (ascii ['i', 'd', 'l', 'e'], 5) := by
  decide
theorem test_xPtrP :
    textAfter (.xPtrP []) (extState 0 [0x00#8, 0x10, 0x00, 0x20]) = some (ascii "20001000".toList, 4) := by
  decide +kernel
theorem test_xPtrT :
    textAfter (.xPtrT []) (extState 7 [0x60#8, 0xE3, 0x16, 0, 0, 0, 0, 0]) = some (ascii "1500000".toList, 8) ∧
    textAfter (.xPtrT []) (extState 7 (List.replicate 8 0#8)) = some (ascii ['7'], 8) := by decide +kernel
theorem test_xPtrH :
    textAfter (.xPtrH [0x21#8]) (extState 0 [0x02#8, 0x00, 0xAB, 0xCD]) =
      some (ascii "ab cd!".toList, 4) := by decide +kernel
theorem test_xPtrH_short :
    textAfter (.xPtrH [0x21#8]) (extState 0 [0x03#8, 0x00, 0xAB, 0xCD]) =
      some (ascii "(bad len)".toList, 2) := by decide +kernel
theorem test_xUnprocessed :
    textAfter (.xUnprocessed (ascii ['l', 'x'])) (extState 0 []) =
      some (ascii "unprocessed format %lx".toList, 0) := by decide
theorem test_xTsMarker :
    textAfter .xTsMarker (extState 1500000 []) = some (ascii "1.500000".toList, 0) := by decide +kernel

/-! ### States that meet the hypotheses of the statements -/

/-- A state with one word issued. -/
def issuing (w : IssueWord) (s : State) : State := { s with issue := [w] }

/-- The middle of V1's header, and the middle of V3's payload. -/
def midHeader : State := assembling Cfg.default .hdr 0 v1Header
/-- V3 before its trailer. -/
def midPayload : State := assembling Cfg.default .pay 22 v3Bytes

theorem midHeader_inv : midHeader.Inv :=
  ⟨by decide, by unfold Mem.within; decide, fun a h => (by decide : ∀ a, a < 12 → (Mem.find midHeader.buf a).isSome = true) a h, by
    show 1 ≤ midHeader.bufLen.toNat ∧ midHeader.bufLen.toNat < headerSize; decide⟩
theorem midPayload_inv : midPayload.Inv :=
  ⟨by decide, by unfold Mem.within; decide, fun a h => (by decide : ∀ a, a < 21 → (Mem.find midPayload.buf a).isSome = true) a h, by
    show headerSize ≤ midPayload.bufLen.toNat ∧ midPayload.bufLen.toNat < midPayload.expLen.toNat ∧
      midPayload.expLen.toNat = headerSize + midPayload.hdrPayLen.toNat + 1
    decide +kernel⟩

theorem witness_StepRunsTheDecodedInstruction :
    (decode Cfg.default (.hostop 0x041#10) = .ok (.feed 0x41#8) ∧
      (issuing (.hostop 0x041#10) State.reset).issue = .hostop 0x041#10 :: []) ∧
    (decode Cfg.default (.frame [0xC1#8]) = .error .frameStartMagic ∧
      (issuing (.frame [0xC1#8]) State.reset).issue = .frame [0xC1#8] :: []) ∧ State.reset.issue = [] := by decide
theorem witness_ConfigurationIsNeverWritten :
    exec (.feed 0xC0#8) State.reset = .next (after (.feed 0xC0#8) State.reset) ∧
    (issuing (.reconfigure extCfg) State.reset).issue = .reconfigure extCfg :: [] := ⟨rfl, rfl⟩
theorem witness_IdleByteIsClassified :
    State.reset.asm = .idle ∧ 0xC1#8 ≠ State.reset.cfg.startMagic ∧
    0xC0#8 ≠ (State.constructed extCfg).cfg.startMagic := by decide
/-- Both clauses, and the last address of `BUF`. -/
theorem witness_FrameByteIsAccumulated :
    midHeader.asm ≠ .idle ∧ midHeader.bufLen.toNat < midHeader.cfg.frameMax ∧
    (let s := assembling Cfg.default .hdr 0 [0xC0#8]; s.asm = .hdr ∧ s.bufLen + 1 ≠ 13) ∧
    (let s := { midPayload with bufLen := 65548, expLen := 15 };
      s.asm = .pay ∧ s.bufLen + 1 ≠ s.expLen ∧ s.bufLen.toNat < s.cfg.frameMax) := by decide
theorem witness_FeedFrame :
    exec (.feed 0xC0#8) State.reset = .next (after (.feed 0xC0#8) State.reset) ∧ 1 ≠ 0 ∧
    exec (.feed 0xC0#8) (assembling Cfg.default .hdr 0 [0xC0#8]) =
      .next (after (.feed 0xC0#8) (assembling Cfg.default .hdr 0 [0xC0#8])) ∧
    0 ≠ (assembling Cfg.default .hdr 0 [0xC0#8]).bufLen.toNat := ⟨rfl, by decide, rfl, by decide⟩
theorem witness_BadHeaderCrcDiscards :
    midHeader.asm = .hdr ∧ midHeader.bufLen = 12 ∧ crc8 (Mem.readBytes midHeader.buf 0 12) ≠ 0x22#8 := by
  decide +kernel
/-- A first header; a header that is a regression; one in a running sequence. -/
theorem witness_ValidHeaderRunsTheTracker :
    ∀ s ∈ [midHeader, { midHeader with lastTs := 13581998891533#48 }, { midHeader with seqValid := true, nextSeq := 1 }],
      s.asm = .hdr ∧ s.bufLen = 12 ∧ crc8 (Mem.readBytes s.buf 0 12) = 0x21#8 := by decide +kernel
theorem witness_TrackerChangesOnlyOnValidHeaders :
    (exec (.feed 0x41#8) State.reset = .next (after (.feed 0x41#8) State.reset) ∧ State.reset.asm ≠ .hdr) ∧
    ((∃ t, exec (.feed 0x22#8) midHeader = .next t) ∧ crc8 (Mem.readBytes midHeader.buf 0 12) ≠ 0x22#8) :=
  ⟨⟨rfl, by decide⟩, ⟨_, rfl⟩, by decide +kernel⟩
theorem witness_ValidHeaderWithPayloadExpectsIt :
    let s := assembling Cfg.default .hdr 0 a4Header
    s.asm = .hdr ∧ s.bufLen = 12 ∧ crc8 (Mem.readBytes s.buf 0 12) = 0xCC#8 ∧ (s.accumulate 0xCC#8).hdrPayLen ≠ 0 := by
  decide +kernel
theorem witness_ValidHeaderWithoutPayloadCompletes :
    midHeader.asm = .hdr ∧ midHeader.bufLen = 12 ∧ crc8 (Mem.readBytes midHeader.buf 0 12) = 0x21#8 ∧
    (midHeader.accumulate 0x21#8).hdrPayLen = 0 := by decide +kernel
/-- V3, and the shortest payload (A4). -/
theorem witness_TrailerByteCompletesTheFrame :
    ∀ s ∈ [midPayload, assembling Cfg.default .pay 15 (a4Header ++ [0xCC#8, 0x01#8])], ∀ b ∈ [0xC1#8, 0x00#8],
      s.asm = .pay ∧ s.bufLen.toNat < s.cfg.frameMax ∧ s.bufLen.toNat = 13 + (s.accumulate b).hdrPayLen.toNat ∧
      s.bufLen + 1 = s.expLen ∧ (s.accumulate b).hdrPayLen ≠ 0 := by decide +kernel
theorem witness_BaseHeaderFields :
    midHeader.cfg.variant = .base ∧ Mem.readBytes (midHeader.accumulate 0x21#8).buf 0 13 =
      [0xC0#8, 0x00#8, 0x01#8, 0x00#8, 0x0C#8, 0x22#8, 0x38#8, 0x4E#8, 0x5A#8, 0x0C#8, 0x00#8, 0x00#8, 0x21#8] := by
  decide +kernel
theorem witness_ExtHeaderFields :
    let s := assembling extCfg .hdr 0 [0xC2#8, 0x00#8, 0x00#8, 0x02#8, 0x00#8, 0x40#8, 0x42#8, 0x0F#8, 0x00#8, 0x00#8,
      0x00#8, 0x0E#8, 0x5C#8]
    s.cfg.variant = .extended ∧ Mem.readBytes s.buf 0 13 =
      [0xC2#8, 0x00#8, 0x00#8, 0x02#8, 0x00#8, 0x40#8, 0x42#8, 0x0F#8, 0x00#8, 0x00#8, 0x00#8, 0x0E#8, 0x5C#8] := by
  decide +kernel
/-- V1 without a payload, V3 with one. -/
theorem witness_BaseFrameIsDecodedWhole :
    ∀ f ∈ [v1Frame, ⟨0x20, 0, 3, 1000000, 8, 0x15, v3Bytes.drop 13, some 0xC1#8⟩],
      State.reset.cfg.variant = .base ∧ State.reset.asm = .idle ∧ f.wf = true ∧ f.crc = crc8 f.header := by
  decide +kernel
theorem witness_ExtFrameIsDecodedWhole :
    (State.constructed v6Cfg).cfg.variant = .extended ∧ (State.constructed v6Cfg).asm = .idle ∧ v6Frame.wf = true ∧
    v6Frame.crc = crc8 v6Frame.header := by decide +kernel
theorem witness_HostOperationsAlwaysComplete : midHeader.Inv ∧ midPayload.Inv := ⟨midHeader_inv, midPayload_inv⟩
theorem witness_InvariantIsKeptByEveryStep :
    (issuing (.hostop 0x022#10) midHeader).Inv ∧ ∃ t, step (issuing (.hostop 0x022#10) midHeader) = .next t :=
  ⟨⟨midHeader_inv.1, midHeader_inv.2, midHeader_inv.3, midHeader_inv.4⟩, ⟨_, rfl⟩⟩
theorem witness_NoStepFaults :
    (issuing (.hostop 0x0C1#10) midPayload).Inv ∧
    (issuing (.hostop 0x0C1#10) midPayload).issue = .hostop 0x0C1#10 :: [] :=
  ⟨⟨midPayload_inv.1, midPayload_inv.2, midPayload_inv.3, midPayload_inv.4⟩, rfl⟩
theorem witness_RecordsStayWellFormed :
    (issuing (.hostop 0x0C0#10) queued).recordsOk ∧ ∃ t, step (issuing (.hostop 0x0C0#10) queued) = .next t := by
  refine ⟨?_, _, rfl⟩
  intro r hr
  simp [issuing, queued] at hr
  rcases hr with rfl | rfl <;> constructor <;> decide
theorem witness_ResetErasesThePast : exec (.reset 0xFF#8) midPayload = .next (after (.reset 0xFF#8) midPayload) := rfl
theorem witness_IntegerCodesReadTheirWord :
    (baseState 1 [0x01#8, 0xEF, 0xBE, 0xAD, 0xDE]).work.holdsWord 0 0xEF#8 0xBE#8 0xAD#8 0xDE#8 := by
  unfold Work.holdsWord; decide
/-- Every clause: the words at which the sub-formats begin and end. -/
theorem witness_ErrorCodeIsUnpacked :
    Cfg.default.errCode2 = .decided ∧
    (baseState 1 [0x05#8, 0x00, 0x00, 0x00, 0x00]).work.curWord = 0x00000000#32 ∧
    (baseState 1 [0x05#8, 0xFF, 0xFF, 0xFF, 0x3F]).work.curWord = 0x3FFFFFFF#32 ∧
    (baseState 1 [0x05#8, 0x00, 0x00, 0x00, 0x40]).work.curWord = 0x40000000#32 ∧
    (baseState 1 [0x05#8, 0x00, 0x00, 0x00, 0x80]).work.curWord = 0x80000000#32 ∧
    (baseState 1 [0x05#8, 0x00, 0x00, 0x00, 0x90]).work.curWord = 0x90000000#32 ∧
    (baseState 1 [0x05#8, 0x00, 0x00, 0x00, 0xC0]).work.curWord = 0xC0000000#32 := by decide
theorem witness_CountSentinelGivesPlaceholder :
    (baseState 1 [0x06#8, 0xFF, 0xFF, 0x05, 0x00]).work.curWord.extractLsb' 0 16 = 0xFFFF#16 := by
  decide
/-- A count of 0, and a count that reaches the payload's end. -/
theorem witness_CountedCodesTakeTrailingData :
    (let w := (baseState 1 [0x06#8, 0, 0, 0, 0, 0x41]).work;
      w.curWord.extractLsb' 0 16 ≠ 0xFFFF#16 ∧ w.frame.payload = [0x06#8, 0, 0, 0, 0] ++ [] ++ [0x41#8] ∧ w.cur = 5 ∧
      (w.curWord.extractLsb' 0 16).toNat = 0) ∧
    (let w := (baseState 1 [0x06#8, 2, 0, 0, 0, 0x41, 0x42]).work;
      w.curWord.extractLsb' 0 16 ≠ 0xFFFF#16 ∧
      w.frame.payload = [0x06#8, 2, 0, 0, 0] ++ [0x41#8, 0x42#8] ++ [] ∧ w.cur = 5 ∧
      (w.curWord.extractLsb' 0 16).toNat = 2) := by decide
/-- A count one past the payload's end, and the largest count. -/
theorem witness_CountPastThePayloadIsBadLen :
    ∀ s ∈ [baseState 1 [0x06#8, 3, 0, 0, 0, 0x41, 0x42], baseState 1 [0x06#8, 0xFE, 0xFF, 0, 0, 0x41, 0x42]],
      s.work.curWord.extractLsb' 0 16 ≠ 0xFFFF#16 ∧
      s.work.frame.payload.length < s.work.cur + (s.work.curWord.extractLsb' 0 16).toNat := by decide
theorem witness_PairFormsReadTwoWords :
    (let w := (baseState 2 [0x17#8, 1, 2, 3, 4, 5, 6, 7, 8]).work;
      w.holdsWord w.slot 1#8 2#8 3#8 4#8 ∧ w.holdsWord (w.slot + 1) 5#8 6#8 7#8 8#8) ∧
    ∀ n ∈ [0#4, 5#4, 15#4], n ≠ 1 ∧ n ≠ 2 ∧ n ≠ 3 ∧ n ≠ 4 := by
  unfold Work.holdsWord; decide
theorem witness_Code7IsAPrefix :
    (let w := (baseState 1 [0x07#8, 1, 0, 0, 0]).work; w.slot + 1 = w.frame.nparam.toNat) ∧
    (let w := (baseState 2 [0x07#8, 1, 0, 0, 0, 2, 0, 0, 0]).work;
      w.slot + 1 ≠ w.frame.nparam.toNat ∧ decodeFmt64 7 (some (w.code Cfg.default (w.slot + 1))) = .ok (.fmt64Invalid 0)) ∧
    (let w := (baseState 2 [0x47#8, 1, 0, 0, 0, 2, 0, 0, 0]).work;
      w.slot + 1 ≠ w.frame.nparam.toNat ∧ decodeFmt64 7 (some (w.code Cfg.default (w.slot + 1))) = .ok .fmt64Time) := by
  decide
/-- Slots 0 and 1 of one nibble byte, under both orders. -/
theorem witness_NibbleOfASlot :
    let w := (baseState 2 [0x42#8, 1, 0, 0, 0, 2, 0, 0, 0]).work
    (∀ i < 2, w.frame.payload[w.litSize + i / 2]? = some 0x42#8) ∧
    w.code Cfg.default 0 = 2 ∧ w.code Cfg.default 1 = 4 ∧
    w.code { Cfg.default with nibbleOrder := .highFirst } 0 = 4 ∧
    w.code { Cfg.default with nibbleOrder := .highFirst } 1 = 2 := by decide
/-- A fixed part that just fits (one slot, five bytes), a turn that runs, and the literal's byte classes. -/
theorem witness_ExtractionRunsTheDecodedRows :
    (let w := (baseState 1 [0x02#8, 7, 0, 0, 0]).work;
      (w.frame.litLen.getD 0).toNat + (w.frame.nparam.toNat + 1) / 2 + 4 * w.frame.nparam.toNat =
        w.frame.payload.length ∧ w.stop = false ∧ w.slot < w.frame.nparam.toNat ∧
      { w with slot := 1 }.frame.nparam.toNat ≤ { w with slot := 1 }.slot) ∧
    ∀ op ∈ [LitOp.byte 0x41#8, .escape (some 0x24#8), .subst, .escape none],
      op ∈ litOps [0x41#8, 0x25#8, 0x24#8, 0x24#8, 0x25#8] := by decide
/-- One parameter and 4 bytes of the 5 it needs; a literal longer than its payload. -/
theorem witness_ShortFixedPartGivesNoItem :
    ∀ r ∈ [{ FrameRec.blank .base with litLen := some 0, nparam := 1, payload := [0x02#8, 1, 0, 0] },
        { FrameRec.blank .base with litLen := some 3, payload := [0x41#8, 0x24#8] }],
      r.items = [] ∧ r.text = [] ∧
      r.payload.length < (r.litLen.getD 0).toNat + (r.nparam.toNat + 1) / 2 + 4 * r.nparam.toNat := by decide
theorem witness_BaseDecodeYieldsAtMostNItems : (baseState 2 [0x11#8, 1, 0, 0, 0, 2, 0, 0, 0]).work.frame.items = [] := rfl
theorem witness_LiteralClassesAppend :
    twoItems.work.frame.items[twoItems.work.nextItem]? = some (.s32 (-1)) ∧
    (let w := { twoItems.work with nextItem := 2 }; w.frame.items.length ≤ w.nextItem) := by decide
theorem witness_BaseTextIsTheExpansion : twoItems.work.frame.text = [] := rfl
/-- Every clause with a hypothesis: the digits on both sides of 10, the default prefix, the largest finite time,
a type without a handler, the four sub-formats with an open text. -/
theorem witness_ItemTexts :
    9 < 10 ∧ 10 ≤ 10 ∧ Cfg.default.prefixForm = .bracketed ∧ 0xFFFFFFFFFFFFFFFE#64 ≠ 0xFFFFFFFFFFFFFFFF#64 ∧
    5#16 ∉ Cfg.default.registry ∧ 5#16 ∈ { Cfg.default with registry := [5#16] }.registry ∧
    ErrCode.pair 1 2 ∈ [ErrCode.fileLine 0 0 1, .fileInst 0 0 1, .pair 1 2, .reserved 1 0] := by decide
/-- A token before the last, and a last token that is empty. -/
theorem witness_TokenizeLosesNothing :
    tokenize (ascii ['a', '%', '%', 'b', '%']) = ([0x61#8], [[0x25#8, 0x62#8], []]) ∧
    [0x25#8, 0x62#8] ∈ (tokenize (ascii ['a', '%', '%', 'b', '%'])).2.dropLast := by decide
/-- An index at the table's end, a template that begins with the marker, one that does not. -/
theorem witness_TemplateLookupAndMarker :
    (let r := { FrameRec.blank .extended with strIndex := some 3 };
      r.strIndex = some 3#16 ∧ r.text = [] ∧ v6Cfg.stringTable.length ≤ (3#16).toNat) ∧
    (let r := { FrameRec.blank .extended with strIndex := some 0 };
      let c := { extCfg with stringTable := [[0x40#8, 0x54#8, 0x21#8]] }
      r.strIndex = some 0#16 ∧ r.text = [] ∧ c.stringTable[(0#16).toNat]? = some (c.tsMarker.bytes ++ [0x21#8])) ∧
    (v6Cfg.stringTable[(0#16).toNat]? = some [] ∧ ¬ v6Cfg.tsMarker.bytes <+: ([] : Bytes)) ∧
    (Work.start (FrameRec.blank .extended)).stop = false := by
  decide
theorem witness_IntConversionsReadFourBytes :
    (extState 0 [0x80#8, 0xFF, 0xFF, 0xFF, 0x41]).work.holdsParams [0x80#8, 0xFF#8, 0xFF#8, 0xFF#8] ∧ plain.len ≠ .ll ∧
    ({ plain with len := .z } : IntSpec).len = .z := ⟨⟨[], [0x41#8], rfl, rfl⟩, by decide, rfl⟩
theorem witness_IntConversionsReadEightBytes :
    ({ plain with len := .ll } : IntSpec).len = .ll ∧
    (extState 0 [1#8, 2, 3, 4, 5, 6, 7, 0x80]).work.holdsParams [1#8, 2#8, 3#8, 4#8, 5#8, 6#8, 7#8, 0x80#8] :=
  ⟨rfl, [], [], rfl, rfl⟩
theorem witness_PlainConversionTexts :
    undefinedInC { plain with width := [8], flags := [.minus] } .dec = false ∧ undefinedInC plain .char = false := by
  decide
theorem witness_FixedPointConversion :
    let p : IntSpec := ⟨[], [8], some [2], .absent⟩
    fixedDigits p .dec [] = some 2 ∧ [0xE6#8, 0#8, 0#8, 0#8].length = (if p.len = .ll then 8 else 4) ∧
    (extState 0 [0xE6#8, 0, 0, 0]).work.holdsParams [0xE6#8, 0#8, 0#8, 0#8] :=
  ⟨by decide, rfl, [], [], rfl, rfl⟩
/-- An inline string, the empty one, and a function reference. -/
theorem witness_StringConversions :
    (0#8 ∉ [0x61#8, 0x62#8] ∧ [0x61#8, 0x62#8].head? ≠ some 0xFF#8 ∧
      (extState 0 [0x61#8, 0x62, 0, 9]).work.holdsParams ([0x61#8, 0x62#8] ++ [0#8])) ∧
    (0#8 ∉ ([] : Bytes) ∧ ([] : Bytes).head? ≠ some 0xFF#8 ∧ (extState 0 [0#8]).work.holdsParams ([] ++ [0#8])) ∧
    (extState 0 [0xFF#8, 1, 0, 0, 0]).work.holdsParams [0xFF#8, 1#8, 0#8, 0#8, 0#8] :=
  ⟨⟨by decide, by decide, [], [9#8], rfl, rfl⟩, ⟨by decide, by decide, [], [], rfl, rfl⟩, [], [], rfl, rfl⟩
theorem witness_PointerConversions :
    (extState 7 [0#8, 0x10, 0, 0x20]).work.holdsParams [0#8, 0x10#8, 0#8, 0x20#8] ∧
    ((List.replicate 8 0#8).length = 8 ∧ (extState 7 (List.replicate 8 0#8)).work.holdsParams (List.replicate 8 0#8)) ∧
    ([0xAB#8, 0xCD#8].length = (0#8 ++ 2#8).toNat ∧
      (extState 7 [2#8, 0, 0xAB, 0xCD]).work.holdsParams (2#8 :: 0#8 :: [0xAB#8, 0xCD#8])) :=
  ⟨⟨[], [], rfl, rfl⟩, ⟨rfl, [], [], rfl, rfl⟩, by decide, [], [], rfl, rfl⟩
/-- Each read one byte short. -/
theorem witness_ReadPastThePayloadEndsTheScan :
    (let w := (extState 0 [1#8, 2, 3]).work; w.frame.payload.length < w.pc + 4) ∧
    (let w := (extState 0 (List.replicate 7 1#8)).work; w.frame.payload.length < w.pc + 8) ∧
    (let w := (extState 0 [0xFF#8, 1, 0, 0]).work; w.frame.payload.length < w.pc + 5) ∧
    (let w := (extState 0 [0x61#8]).work; 0#8 ∉ w.frame.payload.drop w.pc ∧ w.frame.payload.length < w.pc + 2) ∧
    (let w := (extState 0 [2#8, 0, 0xAB]).work;
      w.holdsParams [2#8, 0#8] ∧ w.frame.payload.length < w.pc + 2 + (0#8 ++ 2#8).toNat) :=
  ⟨by decide, by decide, by decide, by decide, ⟨[], [0xAB#8], rfl, rfl⟩, by decide⟩
theorem witness_ExtractionRowsCompleteAndKeepTheRecord :
    (∀ i ∈ [Instr.ctl 1 true 5, .fmtS32, .litSubst, .xPtrH []], i.isExtraction = true) ∧
    ∀ n d q, Instr.fmtS32 ≠ .ctl n d q := ⟨by decide, fun _ _ _ h => by cases h⟩
theorem witness_DecodeEncodeBinaryFormats :
    ∀ i ∈ [Instr.feed 0xFF#8, .idleRaw 0xC1#8, .baseFrame v1Frame, .extFrame v6Frame, .ctl 7 true 15, .fmtWords,
        .fmt64Invalid 0, .errPair 0xFFF 0xFFFF, .errReserved 3 0, .litByte 0#8, .xTsMarker],
      i.wf Cfg.default = true := by decide
theorem witness_DecodeEncodeTemplateTokens :
    let i := Instr.xIntD ⟨[.minus, .zero], [8], none, .ll⟩ [0x21#8]
    i.wf Cfg.default = true ∧ encode Cfg.default i =
      .xspec [0x2D#8, 0x30#8, 0x38#8, 0x6C#8, 0x6C#8, 0x64#8, 0x21#8] none := by decide

end Sys2Proof.Tests
end

section
/-! PROOFS. The frame assembler, byte by byte: a byte fed in `IDLE`, and a header whose CRC fails. -/

namespace Sys2Proof.Machine

theorem exec_feed (b : Byte) (s : State) : exec (.feed b) s = s.feedOutcome b := rfl

theorem exec_idleStartMagic (s : State) : exec .idleStartMagic s = s.feedOutcome s.cfg.startMagic := rfl

theorem exec_idleRaw (b : Byte) (s : State) : exec (.idleRaw b) s = s.feedOutcome b := rfl

namespace State

/-- The converse of `feedOutcome_next`: a byte that `feedByte` takes is answered by a next state. -/
theorem feedOutcome_of_feedByte {b : Byte} {s t : State} {c : Bool} (h : s.feedByte b = .ok (c, t)) :
    s.feedOutcome b = .next (t.setResult (.consumed c)) := by
  rw [feedOutcome, h]

/-- In `IDLE` the start magic opens a frame (40_frame_assembler.md R71). -/
theorem feedByte_idle_startMagic {s : State} (ha : s.asm = .idle) :
    s.feedByte s.cfg.startMagic = .ok (true, s.startFrame s.cfg.startMagic) := by
  simp [feedByte, feedIdle, startsFrame, ha]

/-- In `IDLE` any other byte is not consumed (40_frame_assembler.md R71). -/
theorem feedByte_idle_raw {s : State} {b : Byte} (ha : s.asm = .idle) (hb : b ≠ s.cfg.startMagic) :
    s.feedByte b = .ok (false, s) := by
  simp [feedByte, feedIdle, startsFrame, ha, hb]

theorem headerComplete_of_badCrc {s : State} (h : s.crcValid = false) : s.headerComplete = s.goIdle := by
  simp [headerComplete, h]

/-- The last byte of a header whose CRC is another one sends the block to `IDLE`, past the tracker and the
completion of a frame (40_frame_assembler.md R73). -/
theorem feedByte_badCrc {s : State} {b : Byte} (ha : s.asm = .hdr) (hl : s.bufLen = 12)
    (hc : crc8 (Mem.readBytes s.buf 0 12) ≠ b) : s.feedByte b = .ok (true, (s.accumulate b).goIdle) := by
  have hbad : (s.accumulate b).crcValid = false := by rw [crcValid_last b hl, beq_eq_false_iff_ne]; exact hc
  rw [feedByte_lastOfHeader b ha hl, headerComplete_of_badCrc hbad]

/-- Of the header's last byte, only the write at offset 12 outlives `GoIdle` (40_frame_assembler.md R79). -/
theorem goIdle_accumulate_last {s : State} (b : Byte) (hl : s.bufLen = 12) :
    (s.accumulate b).goIdle = { s with buf := Mem.write s.buf 12 b, bufLen := 0, asm := .idle } := by
  simp [goIdle, accumulate, hl]

end State

/-- Settles O7: FEED's two cases in `IDLE`, which the two byte-class rows share. -/
theorem idleByteIsClassified : Obligations.IdleByteIsClassified := by
  intro s ha
  refine ⟨⟨?startMagic, ?startMagicRow⟩, fun b hb => ?raw⟩
  case startMagic => exact State.feedOutcome_of_feedByte (State.feedByte_idle_startMagic ha)
  case startMagicRow => rw [exec_idleStartMagic, exec_feed]
  case raw =>
    have hraw := State.feedOutcome_of_feedByte (State.feedByte_idle_raw ha hb)
    rw [exec_feed, exec_idleRaw]
    exact ⟨hraw, hraw⟩

/-- Settles O10: the failed CRC test leads to `GoIdle` alone, after the byte was stored. -/
theorem badHeaderCrcDiscards : Obligations.BadHeaderCrcDiscards := by
  intro s b ha hl hc
  rw [exec_feed, State.feedOutcome_of_feedByte (State.feedByte_badCrc ha hl hc),
    State.goIdle_accumulate_last b hl]
  rfl

end Sys2Proof.Machine
end

section
/-! PROOFS. The sequence tracker: what a header with a valid CRC does to ERR_FIFO and to the tracker's
registers, whether or not it declares a payload. -/

namespace Sys2Proof.Machine

namespace State

/-- A valid header that declares no payload is tracked and completes its frame (40_frame_assembler.md R74). -/
theorem headerComplete_noPayload {s : State} (h : s.crcValid = true) (hp : s.hdrPayLen = 0) :
    s.headerComplete = s.trackHeader.completeFrame.goIdle := by
  rw [headerComplete, if_pos h, if_pos hp]

/-- A valid header that declares a payload is tracked and expects it (40_frame_assembler.md R75). -/
theorem headerComplete_payload {s : State} (h : s.crcValid = true) (hp : s.hdrPayLen ≠ 0) :
    s.headerComplete = s.trackHeader.expectPayload (13 + s.hdrPayLen.zeroExtend 17 + 1) := by
  rw [headerComplete, if_pos h, if_neg hp]

/-- Tracking leaves the configuration and `BUF`, so the header's fields, as they are. -/
theorem trackHeader_hdrPayLen (s : State) : s.trackHeader.hdrPayLen = s.hdrPayLen :=
  hdrPayLen_congr s.trackHeader_cfg s.trackHeader_buf

/-- All that a valid header does to ERR_FIFO and to the tracker is `TrackHeader`: a frame that completes with it
has no trailer to miss, and one that goes on raises nothing yet (40_frame_assembler.md R74, R75, R77). -/
theorem headerComplete_tracks {s : State} (h : s.crcValid = true) :
    s.headerComplete.errFifo = s.trackHeader.errFifo ∧ s.headerComplete.nextSeq = s.trackHeader.nextSeq ∧
    s.headerComplete.seqValid = s.trackHeader.seqValid ∧ s.headerComplete.lastTs = s.trackHeader.lastTs := by
  by_cases hp : s.hdrPayLen = 0
  · have hno : s.trackHeader.trailerCondition = none :=
      trailerCondition_none (s.trackHeader_hdrPayLen.trans hp)
    simp [headerComplete_noPayload h hp, hno]
  · simp [headerComplete_payload h hp]

end State

/-- Settles O11: the header's last byte makes its CRC valid, so `TrackHeader` runs, in the state that holds that
byte. -/
theorem validHeaderRunsTheTracker : Obligations.ValidHeaderRunsTheTracker := by
  intro s b ha hl hc
  have hvalid : (s.accumulate b).crcValid = true := by rw [State.crcValid_last b hl, hc, beq_self_eq_true]
  obtain ⟨herr, hseq, hset, hts⟩ := State.headerComplete_tracks hvalid
  refine ⟨_, State.feedOutcome_of_feedByte (State.feedByte_lastOfHeader b ha hl), ?errFifo, ?nextSeq, ?seqValid,
    ?lastTs⟩
  case errFifo =>
    rw [State.setResult_errFifo, herr, State.trackHeader_errFifo, State.gapCondition_toList,
      State.dropCondition_toList]
    rfl
  case nextSeq => rw [State.setResult_nextSeq, hseq, State.trackHeader_nextSeq, ctlSeq]
  case seqValid => rw [State.setResult_seqValid, hset, State.trackHeader_seqValid]
  case lastTs => rw [State.setResult_lastTs, hts, State.trackHeader_lastTs]

end Sys2Proof.Machine
end

section
/-! PROOFS. The Base extractor: the slots that read no trailing data and a fixed part that does not fit, with the
text of a Base frame as the expansion of its literal. -/

namespace Sys2Proof.Machine

/-! ### The rows of the format codes run their operation on the local variables -/

theorem exec_fmtDone (s : State) : exec .fmtDone s = s.runWork Work.fmtDone := rfl
theorem exec_fmtString (s : State) : exec .fmtString s = s.runWork Work.fmtString := rfl
theorem exec_fmtBad8 (s : State) : exec .fmtBad8 s = s.runWork (Work.badFormat 8) := rfl
theorem exec_fmtBad9 (s : State) : exec .fmtBad9 s = s.runWork (Work.badFormat 9) := rfl
theorem exec_fmtBad10 (s : State) : exec .fmtBad10 s = s.runWork (Work.badFormat 10) := rfl
theorem exec_fmtBad11 (s : State) : exec .fmtBad11 s = s.runWork (Work.badFormat 11) := rfl
theorem exec_fmtStruct (s : State) : exec .fmtStruct s = s.runWork Work.fmtStruct := rfl
theorem exec_fmtStrbuf (s : State) : exec .fmtStrbuf s = s.runWork Work.fmtStrbuf := rfl
theorem exec_fmtBytes (s : State) : exec .fmtBytes s = s.runWork Work.fmtBytes := rfl
theorem exec_fmtWords (s : State) : exec .fmtWords s = s.runWork Work.fmtWords := rfl

theorem decode_fmt4 (c : Cfg) (k : BitVec 4) : decode c (.fmt4 k) = .ok (decodeFmt4 k) := rfl

/-- Codes 8 to 11 push their item and nothing else (42_base_extractor.md R120). -/
theorem State.runWork_badFormat (n : BitVec 4) (s : State) :
    s.runWork (Work.badFormat n) = .next { s with work := s.work.pushItem (.badFormat n) 1, result := .none } :=
  s.runWork_eq _

namespace Work

/-- A loop that was ended extracts no slot (42_base_extractor.md R105, R110). -/
theorem slotLoop_of_stop {w : Work} (h : w.stop = true) (c : Cfg) (n : Nat) : slotLoop c n w = w := by
  cases n with
  | zero => rfl
  | succ n => exact if_pos (.inl h)

/-- The count 0xFFFF gives the placeholder item (42_base_extractor.md R125). -/
theorem countedItem_sentinel {w : Work} (h : w.curWord.extractLsb' 0 16 = 0xFFFF#16) (bad : BaseItem)
    (mk : Bytes → BaseItem) : w.countedItem bad mk = w.pushItem bad 1 := if_pos h

/-- A fixed part longer than the payload ends the extraction before its first slot (42_base_extractor.md R106). -/
theorem baseItems_of_short {w : Work} (h : w.paySize < w.fixedSize) (c : Cfg) : w.baseItems c = w.endBadLen :=
  if_pos h

/-! ### The scan of the literal against its expansion (43_base_render.md R146, R147) -/

/-- The texts of the items no `$` has used so far. -/
def unusedTexts (c : Cfg) (w : Work) : List Bytes := (w.frame.items.drop w.nextItem).map (itemText c)

theorem leftovers_eq (c : Cfg) (w : Work) :
    w.leftovers c = (w.unusedTexts c).flatMap fun t => ascii [' '] ++ t := by
  rw [leftovers, unusedTexts, List.flatMap_map]

/-- A `$` appends the first unused text, or nothing. -/
theorem litStep_subst_text (c : Cfg) (w : Work) :
    (w.litStep c .subst).frame.text = w.frame.text ++ (w.unusedTexts c).headD [] := by
  cases h : w.frame.items[w.nextItem]? <;>
    simp [litStep, litSubst, unusedTexts, h, List.headD_eq_head?_getD]

/-- A `$` uses up the first unused text. -/
theorem litStep_subst_unusedTexts (c : Cfg) (w : Work) :
    (w.litStep c .subst).unusedTexts c = (w.unusedTexts c).tail := by
  cases h : w.frame.items[w.nextItem]? with
  | some it => simp [litStep, litSubst, unusedTexts, h]
  | none =>
    have hend : w.frame.items.length ≤ w.nextItem := List.getElem?_eq_none_iff.mp h
    simp [litStep, litSubst, unusedTexts, h, List.drop_eq_nil_of_le hend]

/-- An escape appends the escaped byte, if there is one, and uses no item. -/
theorem litStep_escape_text (c : Cfg) (w : Work) (x : Option Byte) :
    (w.litStep c (.escape x)).frame.text = w.frame.text ++ x.toList := rfl

theorem litStep_escape_unusedTexts (c : Cfg) (w : Work) (x : Option Byte) :
    (w.litStep c (.escape x)).unusedTexts c = w.unusedTexts c := rfl

/-- Any other byte is appended itself and uses no item. -/
theorem litStep_byte_text (c : Cfg) (w : Work) (b : Byte) :
    (w.litStep c (.byte b)).frame.text = w.frame.text ++ [b] := rfl

theorem litStep_byte_unusedTexts (c : Cfg) (w : Work) (b : Byte) :
    (w.litStep c (.byte b)).unusedTexts c = w.unusedTexts c := rfl

/-- The scan and the texts it leaves over are the expansion. -/
theorem litFold_text (c : Cfg) (lit : Bytes) (w : Work) :
    ((litOps lit).foldl (litStep c) w).frame.text ++ ((litOps lit).foldl (litStep c) w).leftovers c =
      w.frame.text ++ expandText (w.unusedTexts c) lit := by
  fun_induction litOps lit generalizing w with
  | case1 => simp [expandText, leftovers_eq]
  | case2 =>
    simp [expandText, leftovers_eq, litStep_subst_text, litStep_subst_unusedTexts]
  | case3 h =>
    simp [expandText, h, leftovers_eq, litStep_escape_text, litStep_escape_unusedTexts]
  | case4 b hd hp =>
    simp [expandText, hd, hp, leftovers_eq, litStep_byte_text, litStep_byte_unusedTexts]
  | case5 c' bs ih =>
    rw [List.foldl_cons, ih, litStep_subst_text, litStep_subst_unusedTexts]
    simp [expandText]
  | case6 c' bs h ih =>
    rw [List.foldl_cons, ih, litStep_escape_text, litStep_escape_unusedTexts]
    simp [expandText, h]
  | case7 b c' bs hd hp ih =>
    rw [List.foldl_cons, ih, litStep_byte_text, litStep_byte_unusedTexts]
    simp [expandText, hd, hp]

theorem expand_text (c : Cfg) (lit : Bytes) (w : Work) :
    (w.expand c lit).frame.text = w.frame.text ++ expandText (w.frame.items.map (itemText c)) lit :=
  litFold_text c lit { w with nextItem := 0, litPos := 0 }

theorem expand_badLen (c : Cfg) (lit : Bytes) (w : Work) : (w.expand c lit).frame.badLen = w.frame.badLen := by
  obtain ⟨txt, h⟩ := expand_frame c lit w
  rw [h]

/-- The bad-len marker, as the statements write it. -/
theorem badLenText_eq : badLenText = ascii "(bad len)".toList := rfl

/-- What `BaseText` appends (43_base_render.md R146 to R150). -/
theorem baseText_text (c : Cfg) (w : Work) :
    (w.baseText c).frame.text = w.frame.text ++ (framePrefix c w.frame.ts w.frame.channel ++
      expandText (w.frame.items.map (itemText c)) w.literal ++ if w.frame.badLen then badLenText else []) := by
  by_cases h : w.frame.badLen = true <;> simp [baseText, expand_badLen, expand_text, h]

/-- Apart from its text, `BaseText` leaves the record as it is. -/
theorem baseText_frame_eq (c : Cfg) (w : Work) :
    (w.baseText c).frame = { w.frame with text := (w.baseText c).frame.text } := by
  obtain ⟨txt, h⟩ := baseText_frame c w
  rw [h]

end Work

/-- Settles O32: the row is STOP, and the loop looks at `stop` before it looks at a slot. -/
theorem codeZeroEndsTheLoop : Obligations.CodeZeroEndsTheLoop := by
  intro s
  refine ⟨?decoded, ?ends, fun c n => ?noLaterSlot⟩
  case decoded => exact decode_fmt4 s.cfg 0
  case ends => rw [exec_fmtDone, State.runWork_eq, Work.fmtDone, Work.endLoop]
  case noLaterSlot => exact Work.slotLoop_of_stop rfl c n

/-- Settles O33: the four codes share one operation. -/
theorem unassignedCodesGiveBadFormat : Obligations.UnassignedCodesGiveBadFormat := by
  intro s
  have hcode (k : BitVec 4) := decode_fmt4 s.cfg k
  have hrow (n : BitVec 4) := State.runWork_badFormat n s
  exact ⟨hcode 8, hcode 9, hcode 10, hcode 11, (exec_fmtBad8 s).trans (hrow 8), (exec_fmtBad9 s).trans (hrow 9),
    (exec_fmtBad10 s).trans (hrow 10), (exec_fmtBad11 s).trans (hrow 11), rfl⟩

/-- Settles O34: the five codes are one counted item, which tests the count before it reads. -/
theorem countSentinelGivesPlaceholder : Obligations.CountSentinelGivesPlaceholder := by
  intro s h
  have hitem := Work.countedItem_sentinel h
  refine ⟨?string, ?struct, ?strbuf, ?bytes, ?words, rfl, rfl⟩
  case string => rw [exec_fmtString, State.runWork_eq, Work.fmtString, hitem]
  case struct => rw [exec_fmtStruct, State.runWork_eq, Work.fmtStruct, hitem]
  case strbuf => rw [exec_fmtStrbuf, State.runWork_eq, Work.fmtStrbuf, hitem]
  case bytes => rw [exec_fmtBytes, State.runWork_eq, Work.fmtBytes, hitem]
  case words => rw [exec_fmtWords, State.runWork_eq, Work.fmtWords, hitem]

/-- Settles O41: no slot is extracted, so the text is that of the record with `bad_len` set and no item. -/
theorem shortFixedPartGivesNoItem : Obligations.ShortFixedPartGivesNoItem := by
  intro c r hitems htext hshort
  have hfixed : (Work.start r).paySize < (Work.start r).fixedSize := hshort
  have hrec : (Work.start r).endBadLen.frame = { r with badLen := true } := rfl
  have hlit : (Work.start r).endBadLen.literal =
      r.payload.take (min (r.litLen.getD 0).toNat r.payload.length) := rfl
  rw [Work.baseDecode, Work.baseItems_of_short hfixed, Work.baseText_frame_eq, Work.baseText_text,
    hrec, hlit, Work.badLenText_eq]
  simp [hitems, htext]

end Sys2Proof.Machine
end

section
/-! PROOFS. The text of a Base frame as the prefix, the expansion of its literal and the bad-len marker. -/

namespace Sys2Proof.Machine

/-- `LIT_LEN` bytes of the payload, or all of it when it is shorter (42_base_extractor.md R106). -/
theorem Work.literal_eq (w : Work) :
    w.literal = w.frame.payload.take (min (w.frame.litLen.getD 0).toNat w.frame.payload.length) := rfl

/-- Settles O44: the scan of the literal is its expansion (`litFold_text`), appended to the empty text after the
prefix. -/
theorem baseTextIsTheExpansion : Obligations.BaseTextIsTheExpansion := by
  intro c w htext
  rw [Work.baseText_text, htext, Work.literal_eq, Work.badLenText_eq, List.nil_append, List.append_assoc]

end Sys2Proof.Machine
end

section
/-! PROOFS. The Extended extractor: a read past the payload is `BADLEN`, which ends the template scan
(44_extended_extractor.md R180). -/

namespace Sys2Proof.Machine

/-! ### The rows of the reading conversions run their operation on the local variables -/

theorem exec_xIntD (p : IntSpec) (rest : Bytes) (s : State) :
    exec (.xIntD p rest) s = s.runWork (Work.xInt p .dec rest) := rfl
theorem exec_xIntU (p : IntSpec) (rest : Bytes) (s : State) :
    exec (.xIntU p rest) s = s.runWork (Work.xInt p .unsigned rest) := rfl
theorem exec_xIntX (p : IntSpec) (rest : Bytes) (s : State) :
    exec (.xIntX p rest) s = s.runWork (Work.xInt p .hexLower rest) := rfl
theorem exec_xIntXU (p : IntSpec) (rest : Bytes) (s : State) :
    exec (.xIntXU p rest) s = s.runWork (Work.xInt p .hexUpper rest) := rfl
theorem exec_xIntC (p : IntSpec) (rest : Bytes) (s : State) :
    exec (.xIntC p rest) s = s.runWork (Work.xInt p .char rest) := rfl
theorem exec_xIntFixed (p : IntSpec) (conv : Conv) (rest : Bytes) (s : State) :
    exec (.xIntFixed p conv rest) s = s.runWork (Work.xIntFixed p conv rest) := rfl
theorem exec_xLenZ (p : IntSpec) (conv : Conv) (rest : Bytes) (s : State) :
    exec (.xLenZ p conv rest) s = s.runWork (Work.xInt { p with len := .z } conv rest) := rfl
theorem exec_xStr (q : StrSpec) (rest : Bytes) (s : State) :
    exec (.xStr q rest) s = s.runWork (Work.xStr rest) := rfl
theorem exec_xStrFn (q : StrSpec) (rest : Bytes) (s : State) :
    exec (.xStrFn q rest) s = s.runWork (Work.xStrFn s.cfg rest) := rfl
theorem exec_xPtrP (rest : Bytes) (s : State) : exec (.xPtrP rest) s = s.runWork (Work.xPtrP rest) := rfl
theorem exec_xPtrT (rest : Bytes) (s : State) : exec (.xPtrT rest) s = s.runWork (Work.xPtrT rest) := rfl
theorem exec_xPtrH (rest : Bytes) (s : State) : exec (.xPtrH rest) s = s.runWork (Work.xPtrH rest) := rfl

/-- A row whose operation ends in `BADLEN` completes, so nothing is raised. -/
theorem State.runWork_scanBadLen {f : Work → Work} {s : State} {w : Work} (h : f s.work = w.scanBadLen) :
    s.runWork f = .next { s with work := w.scanBadLen, result := .none } := by
  rw [runWork_eq, h]

namespace Work

/-! ### Each conversion, when its read would pass the payload -/

theorem xIntWith_short {p : IntSpec} {w : Work} (h : w.frame.payload.length < w.pc + p.size) (conv : Conv)
    (render : Int → Bytes) (item : Int → ExtItem) (rest : Bytes) :
    w.xIntWith p conv render item rest = w.scanBadLen := by
  rw [xIntWith, readBytes_none h]

theorem xInt_short {p : IntSpec} {w : Work} (h : w.frame.payload.length < w.pc + p.size) (conv : Conv)
    (rest : Bytes) : w.xInt p conv rest = w.scanBadLen := by
  simp only [xInt, xIntWith_short h]

theorem xIntFixed_short {p : IntSpec} {w : Work} (h : w.frame.payload.length < w.pc + p.size) (conv : Conv)
    (rest : Bytes) : w.xIntFixed p conv rest = w.scanBadLen := by
  simp only [xIntFixed, xIntWith_short h]

/-- Without a 0x00 the string reaches the end of the payload (44_extended_extractor.md R174). -/
theorem xStr_unterminated {w : Work} (h : 0#8 ∉ w.frame.payload.drop w.pc) (rest : Bytes) :
    w.xStr rest = w.scanBadLen := by
  have hall : (w.frame.payload.drop w.pc).takeWhile (· ≠ 0#8) = w.frame.payload.drop w.pc :=
    List.takeWhile_eq_self_iff.mpr fun b hb => decide_eq_true (ne_of_mem_of_not_mem hb h)
  exact if_pos (congrArg List.length hall)

theorem xStrFn_short {w : Work} (h : w.frame.payload.length < w.pc + 5) (c : Cfg) (rest : Bytes) :
    w.xStrFn c rest = w.scanBadLen := by
  rw [xStrFn, readBytes_none h]

theorem xPtrP_short {w : Work} (h : w.frame.payload.length < w.pc + 4) (rest : Bytes) :
    w.xPtrP rest = w.scanBadLen := by
  rw [xPtrP, readBytes_none h]

theorem xPtrT_short {w : Work} (h : w.frame.payload.length < w.pc + 8) (rest : Bytes) :
    w.xPtrT rest = w.scanBadLen := by
  rw [xPtrT, readBytes_none h]

/-- The dump's length does not fit. -/
theorem xPtrH_shortLength {w : Work} (h : w.frame.payload.length < w.pc + 2) (rest : Bytes) :
    w.xPtrH rest = w.scanBadLen := by
  rw [xPtrH, readBytes_none h]

/-- The dump's length is read, so `pc` is past it, but its data does not fit (44_extended_extractor.md R178). -/
theorem xPtrH_shortData {w : Work} {n0 n1 : Byte} (hlen : w.holdsParams [n0, n1])
    (h : w.frame.payload.length < w.pc + 2 + (n1 ++ n0).toNat) (rest : Bytes) :
    w.xPtrH rest = { w with pc := w.pc + 2 }.scanBadLen := by
  obtain ⟨pre, post, hpay, hpc⟩ := hlen
  have hread : w.readBytes 2 = some ([n0, n1], { w with pc := w.pc + 2 }) := readBytes_eq hpay hpc
  have hdata : { w with pc := w.pc + 2 }.readBytes (leVal [n0, n1]) = none := by
    rw [leVal_two]; exact readBytes_none h
  simp only [xPtrH, hread, hdata]

end Work

/-- Settles O55: every conversion reads before it appends, and a scan that has ended takes no token. -/
theorem readPastThePayloadEndsTheScan : Obligations.ReadPastThePayloadEndsTheScan := by
  refine ⟨fun w => ?marker, fun s rest p q conv => ⟨fun h => ?int, fun h => ⟨?lenZ, ?ptrP⟩, fun h => ?strFn,
    fun h => ?ptrT, fun h => ?str, fun h => ?dumpLength, fun n0 n1 hlen h => ?dumpData, fun toks => ?laterTokens⟩⟩
  case marker => rw [Work.scanBadLen, Work.badLenText_eq]
  case int =>
    have hint (cv : Conv) := State.runWork_scanBadLen (Work.xInt_short (p := p) h cv rest)
    simp only [List.forall_mem_cons, exec_xIntD, exec_xIntU, exec_xIntX, exec_xIntXU, exec_xIntC, exec_xIntFixed]
    exact ⟨hint .dec, hint .unsigned, hint .hexLower, hint .hexUpper, hint .char,
      State.runWork_scanBadLen (Work.xIntFixed_short h conv rest), List.forall_mem_nil _⟩
  case lenZ =>
    have hz : s.work.frame.payload.length < s.work.pc + { p with len := .z }.size := h
    rw [exec_xLenZ, State.runWork_scanBadLen (Work.xInt_short hz conv rest)]
  case ptrP => rw [exec_xPtrP, State.runWork_scanBadLen (Work.xPtrP_short h rest)]
  case strFn => rw [exec_xStrFn, State.runWork_scanBadLen (Work.xStrFn_short h s.cfg rest)]
  case ptrT => rw [exec_xPtrT, State.runWork_scanBadLen (Work.xPtrT_short h rest)]
  case str => rw [exec_xStr, State.runWork_scanBadLen (Work.xStr_unterminated h rest)]
  case dumpLength => rw [exec_xPtrH, State.runWork_scanBadLen (Work.xPtrH_shortLength h rest)]
  case dumpData => rw [exec_xPtrH, State.runWork_scanBadLen (Work.xPtrH_shortData hlen h rest)]
  case laterTokens => exact Work.scanFold_stopped s.cfg toks s.work.scanBadLen_stop

end Sys2Proof.Machine
end

section
/-! PROOFS. The drain operations: the operation words 01 and 10, what they return and clear
(45_host_interface.md R186, R187), and the texts of the conditions (60_exceptions.md R201 to R203). -/

namespace Sys2Proof

/-- `op[9:8]` of an operation word selects the operation, `op[7:0]` is its operand (30_encoding.md R55). -/
theorem hostop_fields (sel : BitVec 2) (x : Byte) :
    (sel ++ x).extractLsb' 8 2 = sel ∧ (sel ++ x).extractLsb' 0 8 = x :=
  ⟨BitVec.extractLsb'_append_eq_left, BitVec.extractLsb'_append_eq_right⟩

theorem decodeHostop_takeDecoded (x : Byte) : decodeHostop (0b01#2 ++ x) = .takeDecoded x := by
  obtain ⟨hsel, hoperand⟩ := hostop_fields 0b01#2 x
  rw [decodeHostop, hsel, hoperand]
  rfl

theorem decodeHostop_takeErrors (x : Byte) : decodeHostop (0b10#2 ++ x) = .takeErrors x := by
  obtain ⟨hsel, hoperand⟩ := hostop_fields 0b10#2 x
  rw [decodeHostop, hsel, hoperand]
  rfl

theorem decode_hostop (c : Cfg) (op : BitVec 10) : decode c (.hostop op) = .ok (decodeHostop op) := rfl

end Sys2Proof

namespace Sys2Proof.Machine

/-- The queued texts, oldest first, with nothing between them (45_host_interface.md R186). -/
theorem recordsText_eq (rs : List FrameRec) : recordsText rs = (rs.map FrameRec.text).flatten :=
  List.flatMap_def

theorem exec_takeDecoded (x : Byte) (s : State) : exec (.takeDecoded x) s =
    .next (s.clearDecoded.setResult (.decoded s.decFifo (recordsText s.decFifo))) := rfl

theorem exec_takeErrors (x : Byte) (s : State) : exec (.takeErrors x) s =
    .next (s.clearErrors.setResult (.errors s.errFifo (s.errFifo.map condText))) := rfl

/-! ### The texts of the conditions -/

/-- Both numbers are unpadded decimals (60_exceptions.md R201). -/
theorem condText_missingPackets (g e : BitVec 4) : condText (.missingPackets g e) =
    ascii "(missing packet(s)); got ".toList ++ decNat g.toNat ++ ascii " expect ".toList ++
      decNat e.toNat := rfl

theorem condText_senderDropped :
    condText .senderDropped = ascii "(sender dropped packet(s))".toList := rfl

/-- The text is the open one, given the byte found (60_exceptions.md R203). -/
theorem condText_missingEndMagic (a : Byte) : condText (.missingEndMagic a) = Config.txtMissingEnd a := rfl

/-- Settles O5: the word's two top bits select the row, and the row writes DEC_FIFO and the result alone. -/
theorem takeDecodedReturnsAndClears : Obligations.TakeDecodedReturnsAndClears := by
  intro s x
  refine ⟨?word, ?effect⟩
  case word => rw [decode_hostop, decodeHostop_takeDecoded]
  case effect => rw [exec_takeDecoded, recordsText_eq, State.clearDecoded, State.setResult]

/-- Settles O6: the word's two top bits select the row, which writes ERR_FIFO and the result alone; the texts are
`CondText`'s three cases. -/
theorem takeErrorsReturnsAndClears : Obligations.TakeErrorsReturnsAndClears := by
  refine ⟨fun s x => ⟨?word, ?effect⟩, condText_missingPackets, condText_senderDropped,
    condText_missingEndMagic⟩
  case word => rw [decode_hostop, decodeHostop_takeErrors]
  case effect => rw [exec_takeErrors, State.clearErrors, State.setResult]

end Sys2Proof.Machine
end

section
/-! PROOFS. The binary encodings: whole frames, the control byte, the operation words, the format codes and the
error-code words are read back from the words they are written as (30_encoding.md R55 to R67). -/

namespace Sys2Proof

/-! ### Little-endian fields -/

theorem leVal_leBytes (n v : Nat) : leVal (leBytes n v) = v % 256 ^ n := by
  induction n generalizing v with
  | zero => simp [leBytes, leVal, Nat.mod_one]
  | succ n ih =>
    have hbyte : (BitVec.ofNat 8 v).toNat = v % 256 := BitVec.toNat_ofNat v 8
    rw [leBytes, leVal, ih, hbyte, Nat.pow_succ', Nat.mod_mul]

/-- A 48-bit timestamp is its low four and its high two bytes (20_memory.md R41). -/
theorem timestampOf_leBytes (t : Timestamp) :
    timestampOf (leVal (leBytes 4 (t.toNat % 2 ^ 32))) (leVal (leBytes 2 (t.toNat / 2 ^ 32))) = t := by
  have ht := t.isLt
  apply BitVec.eq_of_toNat_eq
  rw [timestampOf, leVal_leBytes, leVal_leBytes, BitVec.toNat_ofNat]
  omega

theorem ofNat_leVal_leBytes_two (v : BitVec 16) : BitVec.ofNat 16 (leVal (leBytes 2 v.toNat)) = v := by
  rw [leVal_leBytes]
  exact BitVec.eq_of_toNat_eq (by simp [v.isLt])

/-! ### The header of a whole frame (30_encoding.md R57, R58) -/

/-- `tail` stands for what follows the 12 bytes: the CRC byte and the payload. -/
theorem baseTs_header (f : BaseFrame) (tail : Bytes) : baseTs (f.header ++ tail) = f.ts :=
  timestampOf_leBytes f.ts

theorem basePayLen_header (f : BaseFrame) (tail : Bytes) : basePayLen (f.header ++ tail) = f.payLen :=
  ofNat_leVal_leBytes_two f.payLen

theorem extTs_header (f : ExtFrame) (tail : Bytes) : extTs (f.header ++ tail) = f.ts :=
  timestampOf_leBytes f.ts

theorem extStrIndex_header (f : ExtFrame) (tail : Bytes) : extStrIndex (f.header ++ tail) = f.strIndex :=
  ofNat_leVal_leBytes_two f.strIndex

theorem extPayLen_header (f : ExtFrame) (tail : Bytes) : byteAt (f.header ++ tail) 11 = f.payLen := rfl

theorem BaseFrame.header_length (f : BaseFrame) : f.header.length = 12 := rfl

theorem ExtFrame.header_length (f : ExtFrame) : f.header.length = 12 := rfl

/-- A frame with a right CRC byte (30_encoding.md R57, R60). -/
theorem BaseFrame.bytes_eq {f : BaseFrame} (h : f.crc = crc8 f.header) :
    f.bytes = f.header ++ crc8 f.header :: (f.payload ++ f.trailer.toList) := by
  rw [BaseFrame.bytes, h]

theorem ExtFrame.bytes_eq {f : ExtFrame} (h : f.crc = crc8 f.header) :
    f.bytes = f.header ++ crc8 f.header :: (f.payload ++ f.trailer.toList) := by
  rw [ExtFrame.bytes, h]

theorem BaseFrame.bytes_append (f : BaseFrame) :
    f.bytes = (f.header ++ [f.crc]) ++ (f.payload ++ f.trailer.toList) := by
  rw [BaseFrame.bytes, List.append_assoc]
  rfl

theorem ExtFrame.bytes_append (f : ExtFrame) :
    f.bytes = (f.header ++ [f.crc]) ++ (f.payload ++ f.trailer.toList) := by
  rw [ExtFrame.bytes, List.append_assoc]
  rfl

/-- A payload of the declared length, with a trailer exactly when it is not empty, is split off again
(30_encoding.md R60). -/
theorem splitPayload_append {n : Nat} {payload : Bytes} {trailer : Option Byte} (hp : payload.length = n)
    (ht : trailer.isSome = true ↔ n ≠ 0) :
    splitPayload n (payload ++ trailer.toList) = .ok (payload, trailer) := by
  cases trailer with
  | none =>
    have hn : n = 0 := by simpa using ht
    have hnil : payload = [] := List.length_eq_zero_iff.mp (hp.trans hn)
    simp [splitPayload, hn, hnil]
  | some b =>
    have hn : n ≠ 0 := by simpa using ht
    have hdrop : (payload ++ [b]).drop n = [b] := by rw [← hp, List.drop_left]
    have htake : (payload ++ [b]).take n = payload := by rw [← hp, List.take_left]
    simp [splitPayload, hn, hdrop, htake]

theorem toNat_ne_zero_iff {n : Nat} (x : BitVec n) : x.toNat ≠ 0 ↔ x ≠ 0 :=
  ⟨fun h h0 => h (h0 ▸ rfl), fun h h0 => h (BitVec.eq_of_toNat_eq h0)⟩

theorem BaseFrame.wf_iff (f : BaseFrame) :
    f.wf = true ↔ f.payload.length = f.payLen.toNat ∧ (f.trailer.isSome = true ↔ f.payLen.toNat ≠ 0) := by
  rw [BaseFrame.wf, Bool.and_eq_true, beq_iff_eq, beq_iff_eq, Bool.eq_iff_iff, bne_iff_ne, ← toNat_ne_zero_iff]

theorem ExtFrame.wf_iff (f : ExtFrame) :
    f.wf = true ↔ f.payload.length = f.payLen.toNat ∧ (f.trailer.isSome = true ↔ f.payLen.toNat ≠ 0) := by
  rw [ExtFrame.wf, Bool.and_eq_true, beq_iff_eq, beq_iff_eq, Bool.eq_iff_iff, bne_iff_ne, ← toNat_ne_zero_iff]

theorem decodeFrame_baseBytes {f : BaseFrame} (h : f.wf = true) : decodeFrame f.bytes = .ok (.baseFrame f) := by
  obtain ⟨hp, ht⟩ := f.wf_iff.mp h
  have hsplit : splitPayload (basePayLen f.bytes).toNat (f.bytes.drop headerSize) = .ok (f.payload, f.trailer) := by
    rw [BaseFrame.bytes, basePayLen_header]
    exact splitPayload_append hp ht
  have hhead : f.bytes.head? = some 0xC0#8 := rfl
  have hlen : ¬ f.bytes.length < headerSize := by
    simp [BaseFrame.bytes, f.header_length, headerSize]
    omega
  simp only [decodeFrame, hhead, hlen, hsplit, ne_eq, not_true_eq_false, false_and, if_false, if_true]
  rw [BaseFrame.bytes, baseTs_header, basePayLen_header]
  rfl

theorem decodeFrame_extBytes {f : ExtFrame} (h : f.wf = true) : decodeFrame f.bytes = .ok (.extFrame f) := by
  obtain ⟨hp, ht⟩ := f.wf_iff.mp h
  have hsplit : splitPayload (byteAt f.bytes 11).toNat (f.bytes.drop headerSize) = .ok (f.payload, f.trailer) := by
    rw [ExtFrame.bytes, extPayLen_header]
    exact splitPayload_append hp ht
  have hhead : f.bytes.head? = some 0xC2#8 := rfl
  have hne : ¬ some 0xC2#8 = some 0xC0#8 := by decide
  have hlen : ¬ f.bytes.length < headerSize := by
    simp [ExtFrame.bytes, f.header_length, headerSize]
    omega
  simp only [decodeFrame, hhead, hne, hlen, hsplit, ne_eq, not_true_eq_false, and_false, if_false]
  rw [ExtFrame.bytes, extTs_header, extStrIndex_header, extPayLen_header]
  rfl

/-! ### The control byte and the operation words -/

theorem ctl_fields (n : BitVec 3) (d : BitVec 1) (q : BitVec 4) :
    (n ++ d ++ q).extractLsb' 5 3 = n ∧ (n ++ d ++ q).extractLsb' 4 1 = d ∧ (n ++ d ++ q).extractLsb' 0 4 = q := by
  refine ⟨?_, ?_, BitVec.extractLsb'_append_eq_right⟩ <;>
    rw [BitVec.extractLsb'_append_eq_of_le (by decide)]
  · exact BitVec.extractLsb'_append_eq_left
  · exact BitVec.extractLsb'_append_eq_right

theorem ofBool_ctlDropped (b : Byte) : BitVec.ofBool (ctlDropped b) = b.extractLsb' 4 1 := by
  rw [ctlDropped, BitVec.getLsbD_eq_extractLsb']
  generalize b.extractLsb' 4 1 = x
  revert x; decide

/-- The three fields of the control byte, from the byte they make (30_encoding.md R56). -/
theorem decodeCtl_ctlByte (n : BitVec 3) (d : Bool) (q : BitVec 4) : decodeCtl (ctlByte n d q) = .ctl n d q := by
  obtain ⟨hn, hd, hq⟩ := ctl_fields n (BitVec.ofBool d) q
  have hdropped : ctlDropped (ctlByte n d q) = d := by
    rw [ctlDropped, BitVec.getLsbD_eq_extractLsb', ctlByte, hd]
    cases d <;> rfl
  rw [decodeCtl, hdropped, ctlNparam, ctlSeq, ctlByte, hn, hq]

theorem ctlByte_fields (b : Byte) : ctlByte (ctlNparam b) (ctlDropped b) (ctlSeq b) = b := by
  have hhigh : ctlNparam b ++ b.extractLsb' 4 1 = b.extractLsb' 4 4 :=
    BitVec.extractLsb'_append_extractLsb'_eq_extractLsb' rfl
  rw [ctlByte, ofBool_ctlDropped, hhigh]
  exact BitVec.extractLsb'_append_extractLsb' (w := 4) (len := 4)

theorem two_bits (t : BitVec 2) : t = 0#2 ∨ t = 1#2 ∨ t = 2#2 ∨ t = 3#2 := by
  revert t; decide

theorem decodeHostop_feed (x : Byte) : decodeHostop (0#2 ++ x) = .feed x := by
  obtain ⟨hsel, hoperand⟩ := hostop_fields 0#2 x
  rw [decodeHostop, hsel, hoperand]
  rfl

theorem decodeHostop_reset (x : Byte) : decodeHostop (3#2 ++ x) = .reset x := by
  obtain ⟨hsel, hoperand⟩ := hostop_fields 3#2 x
  rw [decodeHostop, hsel, hoperand]
  rfl

/-- An operation word is its two selecting bits and its operand (30_encoding.md R55). -/
theorem hostop_split (op : BitVec 10) : ∃ (sel : BitVec 2) (x : Byte), op = sel ++ x :=
  ⟨op.extractLsb' 8 2, op.extractLsb' 0 8, (BitVec.extractLsb'_append_extractLsb' (w := 2) (len := 8)).symm⟩

theorem encode_decodeHostop (c : Cfg) (op : BitVec 10) : encode c (decodeHostop op) = .hostop op := by
  obtain ⟨sel, x, rfl⟩ := hostop_split op
  rcases two_bits sel with rfl | rfl | rfl | rfl
  · rw [decodeHostop_feed, encode]
  · rw [decodeHostop_takeDecoded, encode]
  · rw [decodeHostop_takeErrors, encode]
  · rw [decodeHostop_reset, encode]

/-! ### The error-code words (30_encoding.md R66) -/

/-- The sub-formats as a chain of tests of the top two bits. -/
theorem unpackErrCode_eq (l : ErrCode2Layout) (w : Word) : unpackErrCode l w =
    if w = 0#32 then .none
    else if w.extractLsb' 30 2 = 0#2 then
      .fileLine (w.extractLsb' 19 11) (w.extractLsb' 8 11) (w.extractLsb' 0 8)
    else if w.extractLsb' 30 2 = 1#2 then
      .fileInst (w.extractLsb' 19 11) (w.extractLsb' 8 11) (w.extractLsb' 0 8)
    else if w.extractLsb' 30 2 = 2#2 then
      (if w.extractLsb' l.subtypeLo 2 = l.pairSubtype then
        .pair (w.extractLsb' l.subcodeLo 12) (w.extractLsb' l.code16Lo 16)
      else .reserved (w.extractLsb' l.subtypeLo 2) (w.extractLsb' l.rawLo 28))
    else .legacy (w.extractLsb' 0 30) := by
  unfold unpackErrCode
  rcases two_bits (w.extractLsb' 30 2) with h | h | h | h <;> rw [h] <;> rfl

/-- A word with a field that is not 0 is not 0. -/
theorem ne_zero_of_extractLsb' {n lo len : Nat} {w : BitVec n} {x : BitVec len} (h : w.extractLsb' lo len = x)
    (hx : x ≠ 0#len) : w ≠ 0#n := by
  rintro rfl
  exact hx (h.symm.trans BitVec.extractLsb'_zero)

/-- The fields of the two file forms. -/
theorem fileWord_fields (t : BitVec 2) (f l : BitVec 11) (e : Byte) :
    (t ++ f ++ l ++ e).extractLsb' 30 2 = t ∧ (t ++ f ++ l ++ e).extractLsb' 19 11 = f ∧
    (t ++ f ++ l ++ e).extractLsb' 8 11 = l ∧ (t ++ f ++ l ++ e).extractLsb' 0 8 = e := by
  refine ⟨?_, ?_, ?_, BitVec.extractLsb'_append_eq_right⟩ <;>
    rw [BitVec.extractLsb'_append_eq_of_le (by decide)]
  · rw [BitVec.extractLsb'_append_eq_of_le (by decide)]
    exact BitVec.extractLsb'_append_eq_left
  · rw [BitVec.extractLsb'_append_eq_of_le (by decide)]
    exact BitVec.extractLsb'_append_eq_right
  · exact BitVec.extractLsb'_append_eq_right

/-- The fields of the pair form, whose four top bits are its sub-format and its sub-type. -/
theorem pairWord_fields (t : BitVec 4) (k : BitVec 12) (c : BitVec 16) :
    (t ++ k ++ c).extractLsb' 30 2 = t.extractLsb' 2 2 ∧ (t ++ k ++ c).extractLsb' 28 2 = t.extractLsb' 0 2 ∧
    (t ++ k ++ c).extractLsb' 16 12 = k ∧ (t ++ k ++ c).extractLsb' 0 16 = c := by
  refine ⟨?_, ?_, ?_, BitVec.extractLsb'_append_eq_right⟩ <;>
    rw [BitVec.extractLsb'_append_eq_of_le (by decide)]
  · rw [BitVec.extractLsb'_append_eq_of_le (by decide)]
  · rw [BitVec.extractLsb'_append_eq_of_le (by decide)]
  · exact BitVec.extractLsb'_append_eq_right

/-- The fields of the reserved form. -/
theorem reservedWord_fields (t u : BitVec 2) (r : BitVec 28) :
    (t ++ u ++ r).extractLsb' 30 2 = t ∧ (t ++ u ++ r).extractLsb' 28 2 = u ∧
    (t ++ u ++ r).extractLsb' 0 28 = r := by
  refine ⟨?_, ?_, BitVec.extractLsb'_append_eq_right⟩ <;>
    rw [BitVec.extractLsb'_append_eq_of_le (by decide)]
  · exact BitVec.extractLsb'_append_eq_left
  · exact BitVec.extractLsb'_append_eq_right

theorem unpack_fileLine (l : ErrCode2Layout) {f i : BitVec 11} {e : Byte} (h : f ≠ 0 ∨ i ≠ 0 ∨ e ≠ 0) :
    unpackErrCode l (packErrCode (.fileLine f i e)) = .fileLine f i e := by
  obtain ⟨ht, hf, hi, he⟩ := fileWord_fields 0#2 f i e
  have hne : packErrCode (.fileLine f i e) ≠ 0#32 := by
    rcases h with h | h | h
    · exact ne_zero_of_extractLsb' hf h
    · exact ne_zero_of_extractLsb' hi h
    · exact ne_zero_of_extractLsb' he h
  rw [unpackErrCode_eq, if_neg hne, packErrCode, ht, hf, hi, he, if_pos rfl]

theorem unpack_fileInst (l : ErrCode2Layout) (f i : BitVec 11) (e : Byte) :
    unpackErrCode l (packErrCode (.fileInst f i e)) = .fileInst f i e := by
  obtain ⟨ht, hf, hi, he⟩ := fileWord_fields 1#2 f i e
  have hne : packErrCode (.fileInst f i e) ≠ 0#32 := ne_zero_of_extractLsb' ht (by decide)
  rw [unpackErrCode_eq, if_neg hne, packErrCode, ht, hf, hi, he, if_neg (by decide), if_pos rfl]

theorem unpack_pair (k : BitVec 12) (c : BitVec 16) :
    unpackErrCode .decided (packErrCode (.pair k c)) = .pair k c := by
  obtain ⟨ht, hu, hk, hc⟩ := pairWord_fields 8#4 k c
  have hne : packErrCode (.pair k c) ≠ 0#32 := ne_zero_of_extractLsb' ht (by decide)
  rw [unpackErrCode_eq, if_neg hne, packErrCode, ht, hu, hk, hc]
  rfl

theorem unpack_reserved {t : BitVec 2} (r : BitVec 28) (h : t ≠ 0) :
    unpackErrCode .decided (packErrCode (.reserved t r)) = .reserved t r := by
  obtain ⟨ht, hu, hr⟩ := reservedWord_fields 2#2 t r
  have hne : packErrCode (.reserved t r) ≠ 0#32 := ne_zero_of_extractLsb' ht (by decide)
  rw [unpackErrCode_eq, if_neg hne, packErrCode, ht, hu, hr, if_neg (by decide), if_neg (by decide), if_pos rfl,
    if_neg h]

theorem unpack_legacy (l : ErrCode2Layout) (v : BitVec 30) :
    unpackErrCode l (packErrCode (.legacy v)) = .legacy v := by
  have ht : (3#2 ++ v).extractLsb' 30 2 = 3#2 := BitVec.extractLsb'_append_eq_left
  have hv : (3#2 ++ v).extractLsb' 0 30 = v := BitVec.extractLsb'_append_eq_right
  have hne : packErrCode (.legacy v) ≠ 0#32 := ne_zero_of_extractLsb' ht (by decide)
  rw [unpackErrCode_eq, if_neg hne, packErrCode, ht, hv, if_neg (by decide), if_neg (by decide),
    if_neg (by decide)]

theorem decode_errw {c : Cfg} {e : ErrCode} (h : unpackErrCode c.errCode2 (packErrCode e) = e) :
    decode c (.errw (packErrCode e)) = .ok (errInstr e) := by
  rw [decode, h]

/-! ### The 64-bit forms, the idle bytes and the literal -/

theorem decodeFmt64_invalid {n : BitVec 4} (h1 : n ≠ 1) (h2 : n ≠ 2) (h3 : n ≠ 3) (h4 : n ≠ 4) :
    decodeFmt64 7#4 (some n) = .ok (.fmt64Invalid n) := by
  have hno : ∀ m : BitVec 4, m = 1 ∨ m = 2 ∨ m = 3 ∨ m = 4 ∨ decodeFmt64 7#4 (some m) = .ok (.fmt64Invalid m) := by
    decide
  rcases hno n with h | h | h | h | h
  · exact absurd h h1
  · exact absurd h h2
  · exact absurd h h3
  · exact absurd h h4
  · exact h

theorem decode_idleRaw {c : Cfg} {b : Byte} (h : b ≠ c.startMagic) : decode c (.idleByte b) = .ok (.idleRaw b) := by
  rw [decode, decodeIdleByte, if_neg h]

theorem decode_idleStartMagic (c : Cfg) : decode c (.idleByte c.startMagic) = .ok .idleStartMagic := by
  rw [decode, decodeIdleByte, if_pos rfl]

theorem decodeBlit_byte {b : Byte} (hd : b ≠ dollar) (hp : b ≠ percent) :
    decodeBlit (LitOp.byte b).bytes = .ok (.litByte b) := by
  rw [LitOp.bytes, decodeBlit, if_neg hd, if_neg hp]

theorem decodeBlit_escape (x : Option Byte) : decodeBlit (LitOp.escape x).bytes = .ok (.litEscape x) := by
  cases x with
  | none => rfl
  | some c => rfl

theorem decode_xmarker (c : Cfg) : decode c (.xmarker c.tsMarker.bytes) = .ok .xTsMarker := if_pos rfl

/-- Settles O59: a case per row.  A row of one word decodes by computation; a row with operands by the lemma about its
word; a row written as a template token is excluded. -/
theorem decodeEncodeBinaryFormats : Obligations.DecodeEncodeBinaryFormats := by
  intro c i hwf hne
  cases i
  case feed b => rw [encode, decode_hostop, decodeHostop_feed]
  case takeDecoded x => rw [encode, decode_hostop, decodeHostop_takeDecoded]
  case takeErrors x => rw [encode, decode_hostop, decodeHostop_takeErrors]
  case reset x => rw [encode, decode_hostop, decodeHostop_reset]
  case idleStartMagic => exact decode_idleStartMagic c
  case idleRaw b => exact decode_idleRaw (bne_iff_ne.mp hwf)
  case baseFrame f => exact decodeFrame_baseBytes hwf
  case extFrame f => exact decodeFrame_extBytes hwf
  case ctl n d q => exact congrArg Except.ok (decodeCtl_ctlByte n d q)
  case fmt64Invalid n =>
    simp only [Instr.wf, Bool.and_eq_true, bne_iff_ne] at hwf
    obtain ⟨⟨⟨h1, h2⟩, h3⟩, h4⟩ := hwf
    exact decodeFmt64_invalid h1 h2 h3 h4
  case errFileLine f l e =>
    simp only [Instr.wf, Bool.or_eq_true, bne_iff_ne, or_assoc] at hwf
    exact decode_errw (unpack_fileLine _ hwf)
  case errFileInst f n e => exact decode_errw (unpack_fileInst _ f n e)
  case errPair k v =>
    have hl : c.errCode2 = .decided := beq_iff_eq.mp hwf
    exact decode_errw (hl ▸ unpack_pair k v)
  case errReserved t r =>
    simp only [Instr.wf, Bool.and_eq_true, beq_iff_eq, bne_iff_ne] at hwf
    obtain ⟨hl, ht⟩ := hwf
    exact decode_errw (hl ▸ unpack_reserved r ht)
  case errLegacy v => exact decode_errw (unpack_legacy _ v)
  case litEscape x => exact decodeBlit_escape x
  case litByte b =>
    simp only [Instr.wf, Bool.and_eq_true, bne_iff_ne] at hwf
    obtain ⟨hd, hp⟩ := hwf
    exact decodeBlit_byte hd hp
  case xTsMarker => exact decode_xmarker c
  case xEscape | xIntFixed | xIntD | xIntU | xIntX | xIntXU | xIntC | xLenZ | xStr | xStrFn | xPtrP | xPtrT | xPtrH |
      xUnprocessed => exact absurd rfl (hne _ _)
  all_goals rfl

end Sys2Proof
end

section
/-! PROOFS. The template's tokens: the grammar reads back every flag, digit, length, letter and rest that a
well-formed conversion is written with (30_encoding.md R68). -/

namespace Sys2Proof

/-! ### The characters of the grammar, read back -/

theorem flagOf_byte (f : Flag) : flagOf f.byte = some f := by
  cases f <;> rfl

theorem digitOf_byte (d : Digit) : digitOf d.byte = some d := by
  revert d; decide

theorem convOf_byte (k : Conv) : convOf k.byte = some k := by
  cases k <;> rfl

theorem ptrKindOf_byte (k : PtrKind) : ptrKindOf k.byte = some k := by
  cases k <;> rfl

/-- A digit but `0` is no flag (30_encoding.md R68). -/
theorem flagOf_digit {d : Digit} (h : d ≠ 0) : flagOf d.byte = none := by
  revert d; decide

/-- The run of flags ends where no flag follows. -/
theorem spanFlags_append (fs : List Flag) {tail : Bytes} (h : ∀ b, tail.head? = some b → flagOf b = none) :
    spanFlags (fs.map Flag.byte ++ tail) = (fs, tail) := by
  induction fs with
  | nil =>
    cases tail with
    | nil => rfl
    | cons b bs => simp [spanFlags, h b rfl]
  | cons f fs ih => simp [spanFlags, flagOf_byte, ih]

/-- The run of digits ends where no digit follows. -/
theorem spanDigits_append (ds : List Digit) {tail : Bytes} (h : ∀ b, tail.head? = some b → digitOf b = none) :
    spanDigits (ds.map Digit.byte ++ tail) = (ds, tail) := by
  induction ds with
  | nil =>
    cases tail with
    | nil => rfl
    | cons b bs => simp [spanDigits, h b rfl]
  | cons d ds ih => simp [spanDigits, digitOf_byte, ih]

/-- A byte that begins neither a flag nor a digit nor a precision, and is no `%`: what may follow WIDTH. -/
def endsWidth (b : Byte) : Prop := flagOf b = none ∧ digitOf b = none ∧ b ≠ percent

/-- WIDTH that does not begin with `0` leaves FLAGS as they are written. -/
theorem spanFlags_width (fs : List Flag) {w : List Digit} {b : Byte} (tail : Bytes) (hw : widthOk w = true)
    (hb : endsWidth b) :
    spanFlags (fs.map Flag.byte ++ (w.map Digit.byte ++ b :: tail)) = (fs, w.map Digit.byte ++ b :: tail) := by
  refine spanFlags_append fs fun x hx => ?_
  cases w with
  | nil =>
    obtain rfl : b = x := by simpa using hx
    exact hb.1
  | cons d ds =>
    obtain rfl : d.byte = x := by simpa using hx
    exact flagOf_digit (by simpa [widthOk] using hw)

theorem spanDigits_width (w : List Digit) {b : Byte} (tail : Bytes) (hb : endsWidth b) :
    spanDigits (w.map Digit.byte ++ b :: tail) = (w, b :: tail) := by
  refine spanDigits_append w fun x hx => ?_
  obtain rfl : b = x := by simpa using hx
  exact hb.2.1

/-- FLAGS WIDTH begin with no `%`, so no ESCAPE is read. -/
theorem parseEscape_none (fs : List Flag) (w : List Digit) {b : Byte} (tail : Bytes) (hb : endsWidth b) :
    parseEscape (fs.map Flag.byte ++ (w.map Digit.byte ++ b :: tail)) = none := by
  have hflag : ∀ f : Flag, f.byte ≠ percent := by rintro (_ | _ | _ | _ | _) <;> decide
  have hdigit : ∀ d : Digit, d.byte ≠ percent := by decide
  cases fs with
  | cons f fs => exact if_neg (hflag f)
  | nil =>
    cases w with
    | cons d ds => exact if_neg (hdigit d)
    | nil => exact if_neg hb.2.2

/-! ### PREC, LEN and CONV -/

/-- The byte after PREC is `l`, `z` or a conversion's letter. -/
def afterPrec (len : Len) (conv : Conv) : Byte := (len.bytes ++ [conv.byte]).headD 0

theorem lenConv_eq (len : Len) (conv : Conv) (rest : Bytes) :
    len.bytes ++ conv.byte :: rest = afterPrec len conv :: (len.bytes ++ conv.byte :: rest).tail := by
  cases len <;> rfl

theorem endsWidth_afterPrec (len : Len) (conv : Conv) :
    endsWidth (afterPrec len conv) ∧ afterPrec len conv ≠ point := by
  unfold endsWidth
  cases len <;> cases conv <;> decide

theorem spanPrec_append (p : Option (List Digit)) (len : Len) (conv : Conv) (rest : Bytes) :
    spanPrec (precBytes p ++ (len.bytes ++ conv.byte :: rest)) = (p, len.bytes ++ conv.byte :: rest) := by
  obtain ⟨hb, hpoint⟩ := endsWidth_afterPrec len conv
  rw [lenConv_eq]
  cases p with
  | none => exact if_neg hpoint
  | some ds => simp [precBytes, spanPrec, spanDigits_width ds _ hb]

theorem spanLen_append (len : Len) (conv : Conv) (rest : Bytes) :
    spanLen (len.bytes ++ conv.byte :: rest) = (len, conv.byte :: rest) := by
  cases len with
  | z => rfl
  | ll => cases rest <;> rfl
  | absent => cases rest <;> cases conv <;> rfl

/-- PREC LEN CONV begin with a point, an `l`, a `z` or a conversion's letter. -/
theorem precLenConv_cons (p : Option (List Digit)) (len : Len) (conv : Conv) (rest : Bytes) :
    ∃ b tail, precBytes p ++ (len.bytes ++ conv.byte :: rest) = b :: tail ∧ endsWidth b := by
  cases p with
  | none => exact ⟨_, _, lenConv_eq len conv rest, (endsWidth_afterPrec len conv).1⟩
  | some ds => exact ⟨point, _, rfl, by unfold endsWidth; decide⟩

theorem tokenInt_bytes (s : IntSpec) (conv : Conv) (rest : Bytes) : (Token.int s conv rest).bytes =
    s.flags.map Flag.byte ++ (s.width.map Digit.byte ++ (precBytes s.prec ++ (s.len.bytes ++ conv.byte :: rest))) := by
  simp [Token.bytes, IntSpec.formatBytes]

/-! ### The four grammars -/

theorem parseToken_int {s : IntSpec} (conv : Conv) (rest : Bytes) (hw : widthOk s.width = true) :
    parseToken (Token.int s conv rest).bytes = .int s conv rest := by
  obtain ⟨b, tail, hcons, hb⟩ := precLenConv_cons s.prec s.len conv rest
  have hint : parseInt (Token.int s conv rest).bytes = some (.int s conv rest) := by
    rw [tokenInt_bytes, hcons]
    simp only [parseInt, spanFlags_width s.flags tail hw hb, spanDigits_width s.width tail hb]
    simp only [← hcons, spanPrec_append, spanLen_append, convOf_byte, Option.map_some]
  have hesc : parseEscape (Token.int s conv rest).bytes = none := by
    rw [tokenInt_bytes, hcons, parseEscape_none _ _ _ hb]
  rw [parseToken, hesc, hint]
  rfl

/-- After FLAGS WIDTH a letter that begins no PREC, no LEN and no CONV is no INT. -/
theorem parseInt_none (fs : List Flag) {w : List Digit} {b : Byte} (tail : Bytes) (hw : widthOk w = true)
    (hb : endsWidth b) (hlen : spanLen (b :: tail) = (.absent, b :: tail)) (hpoint : b ≠ point)
    (hconv : convOf b = none) : parseInt (fs.map Flag.byte ++ (w.map Digit.byte ++ b :: tail)) = none := by
  simp only [parseInt, spanFlags_width fs tail hw hb, spanDigits_width w tail hb, spanPrec, if_neg hpoint, hlen,
    hconv, Option.map_none]

/-- A letter but `l` and `z` is not read as LEN. -/
theorem spanLen_absent {b : Byte} (tail : Bytes) (hz : b ≠ 0x7A#8) (hl : b ≠ 0x6C#8) :
    spanLen (b :: tail) = (.absent, b :: tail) := by
  cases tail with
  | nil => simp [spanLen, hz]
  | cons c cs => simp [spanLen, hz, hl]

theorem parseToken_str {s : StrSpec} (rest : Bytes) (hw : widthOk s.width = true) :
    parseToken (Token.str s rest).bytes = .str s rest := by
  have hs : endsWidth 0x73#8 := by unfold endsWidth; decide
  have hbytes : (Token.str s rest).bytes = s.flags.map Flag.byte ++ (s.width.map Digit.byte ++ 0x73#8 :: rest) := by
    simp [Token.bytes, StrSpec.bytes]
  have hstr : parseStr (Token.str s rest).bytes = some (.str s rest) := by
    rw [hbytes]
    simp only [parseStr, spanFlags_width s.flags rest hw hs, spanDigits_width s.width rest hs, if_true]
  have hint : parseInt (Token.str s rest).bytes = none :=
    hbytes ▸ parseInt_none s.flags rest hw hs (spanLen_absent rest (by decide) (by decide)) (by decide) rfl
  have hesc : parseEscape (Token.str s rest).bytes = none := hbytes ▸ parseEscape_none _ _ _ hs
  rw [parseToken, hesc, hint, hstr]
  rfl

theorem parseToken_ptr (k : PtrKind) (rest : Bytes) : parseToken (Token.ptr k rest).bytes = .ptr k rest := by
  have hp : endsWidth 0x70#8 := by unfold endsWidth; decide
  have hint : parseInt (Token.ptr k rest).bytes = none :=
    parseInt_none [] (w := []) _ (by decide) hp (spanLen_absent _ (by decide) (by decide)) (by decide) rfl
  have hptr : parsePtr (Token.ptr k rest).bytes = some (.ptr k rest) := by
    simp [Token.bytes, parsePtr, ptrKindOf_byte]
  rw [parseToken, hint, hptr]
  rfl

theorem parseToken_escape (rest : Bytes) : parseToken (Token.escape rest).bytes = .escape rest := rfl

/-! ### The row of a token -/

theorem intInstr_fixed {s : IntSpec} {conv : Conv} {rest : Bytes} (h : (fixedDigits s conv rest).isSome = true) :
    intInstr s conv rest = .xIntFixed s conv rest := if_pos h

theorem intInstr_z {s : IntSpec} {conv : Conv} {rest : Bytes} (h : (fixedDigits s conv rest).isNone = true)
    (hz : s.len = .z) : intInstr s conv rest = .xLenZ s conv rest := by
  simp [intInstr, Option.isNone_iff_eq_none.mp h, hz]

/-- The row of an integer conversion without fixed point and without `z` (44_extended_extractor.md R168 to
R172). -/
def Conv.row : Conv → IntSpec → Bytes → Instr
  | .dec => .xIntD
  | .unsigned => .xIntU
  | .hexLower => .xIntX
  | .hexUpper => .xIntXU
  | .char => .xIntC

theorem intInstr_row {s : IntSpec} {conv : Conv} {rest : Bytes} (h : (fixedDigits s conv rest).isNone = true)
    (hz : s.len ≠ .z) : intInstr s conv rest = conv.row s rest := by
  cases conv <;> simp [intInstr, Option.isNone_iff_eq_none.mp h, hz, Conv.row]

/-- An integer token decodes to the row that `intInstr` picks. -/
theorem decode_int (c : Cfg) {s : IntSpec} (conv : Conv) (rest : Bytes) (k : Option Byte)
    (hw : widthOk s.width = true) :
    decode c (.xspec (Token.int s conv rest).bytes k) = .ok (intInstr s conv rest) := by
  rw [decode, parseToken_int conv rest hw]
  rfl

/-- The five rows of `Conv.row` share their well-formedness, so they are read back alike. -/
theorem decode_row (c : Cfg) {s : IntSpec} {conv : Conv} {rest : Bytes}
    (h : (widthOk s.width && s.len != .z && (fixedDigits s conv rest).isNone) = true) (k : Option Byte) :
    decode c (.xspec (Token.int s conv rest).bytes k) = .ok (conv.row s rest) := by
  obtain ⟨hspec, hfixed⟩ := Bool.and_eq_true_iff.mp h
  obtain ⟨hw, hz⟩ := Bool.and_eq_true_iff.mp hspec
  rw [decode_int c conv rest k hw, intInstr_row hfixed (bne_iff_ne.mp hz)]

theorem decode_str (c : Cfg) {s : StrSpec} (rest : Bytes) (k : Option Byte) (hw : widthOk s.width = true) :
    decode c (.xspec (Token.str s rest).bytes k) =
      .ok (if k = some 0xFF#8 then .xStrFn s rest else .xStr s rest) := by
  rw [decode, parseToken_str rest hw]
  rfl

theorem decode_ptr (c : Cfg) (kind : PtrKind) (rest : Bytes) (k : Option Byte) :
    decode c (.xspec (Token.ptr kind rest).bytes k) = .ok (tokenInstr (.ptr kind rest) k) := by
  rw [decode, parseToken_ptr]

/-- Settles O60: a case per row that is written as a token; every other row has another kind of word. -/
theorem decodeEncodeTemplateTokens : Obligations.DecodeEncodeTemplateTokens := by
  intro c i t k hwf henc
  cases i <;> simp only [encode, IssueWord.xspec.injEq, reduceCtorEq] at henc <;> obtain ⟨rfl, rfl⟩ := henc
  case xEscape rest => exact congrArg (fun tok => Except.ok (tokenInstr tok none)) (parseToken_escape rest)
  case xIntFixed s conv rest =>
    obtain ⟨hw, hfixed⟩ := (Bool.and_eq_true ..).mp hwf
    rw [decode_int c conv rest _ hw, intInstr_fixed hfixed]
  case xIntD s rest => exact decode_row c hwf _
  case xIntU s rest => exact decode_row c hwf _
  case xIntX s rest => exact decode_row c hwf _
  case xIntXU s rest => exact decode_row c hwf _
  case xIntC s rest => exact decode_row c hwf _
  case xLenZ s conv rest =>
    simp only [Instr.wf, Bool.and_eq_true, beq_iff_eq] at hwf
    obtain ⟨⟨hw, hz⟩, hfixed⟩ := hwf
    rw [decode_int c conv rest _ hw, intInstr_z hfixed hz]
  case xStr s rest => rw [decode_str c rest _ hwf, if_neg (by decide)]
  case xStrFn s rest => rw [decode_str c rest _ hwf, if_pos rfl]
  case xPtrP rest => exact decode_ptr c .P rest _
  case xPtrT rest => exact decode_ptr c .T rest _
  case xPtrH rest => exact decode_ptr c .h rest _
  case xUnprocessed t =>
    have hparse : parseToken t = .unprocessed t := beq_iff_eq.mp hwf
    rw [decode, hparse]
    rfl

/-! ### The tokenizer (44_extended_extractor.md R163) -/

/-- What the tokenizer holds of the token in progress: nothing right after the splitting `%`, else a token that
holds a `%` only as its first byte. -/
def TokenSoFar (first : Bool) (cur : Bytes) : Prop :=
  (first = true ∧ cur = []) ∨ (first = false ∧ cur ≠ [] ∧ percent ∉ cur.tail)

/-- A byte that does not split the token joins it. -/
theorem TokenSoFar.push {first : Bool} {cur : Bytes} {b : Byte} (h : TokenSoFar first cur)
    (hb : ¬(b = percent ∧ ¬first = true)) : TokenSoFar false (cur ++ [b]) := by
  refine .inr ⟨rfl, by simp, ?_⟩
  rcases h with ⟨_, rfl⟩ | ⟨rfl, hne, hcur⟩
  · simp
  · have hb' : percent ≠ b := fun e => hb ⟨e.symm, by simp⟩
    rw [List.tail_append_of_ne_nil hne]
    simp [hcur, hb']

theorem TokenSoFar.not_mem_tail {first : Bool} {cur : Bytes} (h : TokenSoFar first cur) : percent ∉ cur.tail := by
  rcases h with ⟨_, rfl⟩ | ⟨_, _, hcur⟩
  · simp
  · exact hcur

theorem TokenSoFar.ne_nil {cur : Bytes} (h : TokenSoFar false cur) : cur ≠ [] := by
  rcases h with ⟨hf, _⟩ | ⟨_, hne, _⟩
  · cases hf
  · exact hne

theorem tokensFrom_ne_nil (first : Bool) (cur bs : Bytes) : tokensFrom first cur bs ≠ [] := by
  induction bs generalizing first cur with
  | nil => simp [tokensFrom]
  | cons b bs ih =>
    rw [tokensFrom]
    split
    · simp
    · exact ih _ _

theorem tokensFrom_flatMap (first : Bool) (cur bs : Bytes) :
    (tokensFrom first cur bs).flatMap (fun k => percent :: k) = percent :: cur ++ bs := by
  induction bs generalizing first cur with
  | nil => simp [tokensFrom]
  | cons b bs ih =>
    rw [tokensFrom]
    split
    · rename_i h
      simp [ih, h.1]
    · simp [ih]

theorem percent_not_mem_tail_of_tokensFrom (bs : Bytes) {first : Bool} {cur : Bytes} (h : TokenSoFar first cur) :
    ∀ k ∈ tokensFrom first cur bs, percent ∉ k.tail := by
  induction bs generalizing first cur with
  | nil => simpa [tokensFrom] using h.not_mem_tail
  | cons b bs ih =>
    rw [tokensFrom]
    split
    · rw [List.forall_mem_cons]
      exact ⟨h.not_mem_tail, ih (.inl ⟨rfl, rfl⟩)⟩
    · rename_i hb
      exact ih (h.push hb)

theorem tokensFrom_dropLast_ne_nil (bs : Bytes) {first : Bool} {cur : Bytes} (h : TokenSoFar first cur) :
    ∀ k ∈ (tokensFrom first cur bs).dropLast, k ≠ [] := by
  induction bs generalizing first cur with
  | nil => simp [tokensFrom]
  | cons b bs ih =>
    rw [tokensFrom]
    split
    · rename_i hb
      have hf : first = false := Bool.eq_false_iff.mpr hb.2
      rw [List.dropLast_cons_of_ne_nil (tokensFrom_ne_nil true [] bs), List.forall_mem_cons]
      exact ⟨(hf ▸ h).ne_nil, ih (.inl ⟨rfl, rfl⟩)⟩
    · rename_i hb
      exact ih (h.push hb)

/-- A template holds no `%`, or the prefix ends at its first one and the tokens begin after it. -/
theorem tokenize_cases (t : Bytes) :
    (tokenize t = (t, [])) ∨
    ∃ rest, t = t.takeWhile (· ≠ percent) ++ percent :: rest ∧
      tokenize t = (t.takeWhile (· ≠ percent), tokensFrom true [] rest) := by
  have hsplit := List.takeWhile_append_dropWhile (p := (· ≠ percent)) (l := t)
  unfold tokenize
  cases h : t.dropWhile (· ≠ percent) with
  | nil =>
    rw [h, List.append_nil] at hsplit
    exact .inl (by rw [hsplit])
  | cons b rest =>
    have hb : b = percent := by
      have hstop := List.head_dropWhile_not (p := (· ≠ percent)) (l := t) (h ▸ List.cons_ne_nil b rest)
      simpa only [h, List.head_cons, decide_eq_false_iff_not, ne_eq, not_not] using hstop
    rw [h, hb] at hsplit
    exact .inr ⟨rest, hsplit.symm, rfl⟩

/-- Settles O46: after a splitting `%` the tokenizer holds an empty token, which is what `TokenSoFar` needs. -/
theorem tokenizeLosesNothing : Obligations.TokenizeLosesNothing := by
  intro t
  have hprefix : percent ∉ (tokenize t).1 := fun h => by simpa using List.mem_takeWhile_imp h
  have hstart : TokenSoFar true [] := .inl ⟨rfl, rfl⟩
  refine ⟨?lossless, hprefix, ?firstOnly, ?lastOnly⟩ <;>
    rcases tokenize_cases t with h | ⟨rest, ht, h⟩ <;> rw [h]
  case lossless.inl => simp
  case lossless.inr => rw [tokensFrom_flatMap]; exact ht.symm
  case firstOnly.inl => simp
  case firstOnly.inr => exact percent_not_mem_tail_of_tokensFrom rest hstart
  case lastOnly.inl => simp
  case lastOnly.inr => exact tokensFrom_dropLast_ne_nil rest hstart

end Sys2Proof
end

section
/-! PROOFS. The frame assembler, one fed byte at a time: what it leaves unchanged, and how a header and a frame end
(40_frame_assembler.md R70 to R79). -/

namespace Sys2Proof.Machine

theorem exec_frameByte (b : Byte) (s : State) : exec (.frameByte b) s = s.feedOutcome b := rfl

namespace State

/-! ### What follows an accumulated byte -/

@[simp] theorem afterByte_cfg (s : State) : s.afterByte.cfg = s.cfg := by
  rcases afterByte_cases s with ⟨h, _⟩ | ⟨_, _, _, h⟩ | ⟨_, _, _, _, h⟩ | ⟨_, _, _, _, h⟩ | ⟨_, _, h⟩ <;> simp [h]

@[simp] theorem afterByte_buf (s : State) : s.afterByte.buf = s.buf := by
  rcases afterByte_cases s with ⟨h, _⟩ | ⟨_, _, _, h⟩ | ⟨_, _, _, _, h⟩ | ⟨_, _, _, _, h⟩ | ⟨_, _, h⟩ <;> simp [h]

@[simp] theorem afterByte_issue (s : State) : s.afterByte.issue = s.issue := by
  rcases afterByte_cases s with ⟨h, _⟩ | ⟨_, _, _, h⟩ | ⟨_, _, _, _, h⟩ | ⟨_, _, _, _, h⟩ | ⟨_, _, h⟩ <;> simp [h]

theorem trackHeader_frameRecord (s : State) : s.trackHeader.frameRecord = s.frameRecord :=
  frameRecord_congr s.trackHeader_cfg s.trackHeader_buf

/-- A byte completes no frame, or one frame, whose record is that of the bytes in `BUF`. -/
theorem afterByte_decFifo (s : State) :
    s.afterByte.decFifo = s.decFifo ∨ s.afterByte.decFifo = s.decFifo ++ [s.frameRecord] := by
  rcases afterByte_cases s with ⟨h, _⟩ | ⟨_, _, _, h⟩ | ⟨_, _, _, _, h⟩ | ⟨_, _, _, _, h⟩ | ⟨_, _, h⟩
  · exact .inl (by rw [h])
  · exact .inl (by simp [h])
  · exact .inr (by simp [h, trackHeader_frameRecord])
  · exact .inl (by simp [h])
  · exact .inr (by simp [h])

theorem toList_length_le {α : Type} (o : Option α) : o.toList.length ≤ 1 := by
  cases o <;> simp

/-- A header raises the gap and the drop, a frame with a payload its trailer: never the three together. -/
theorem afterByte_errFifo (s : State) : ∃ ks, s.afterByte.errFifo = s.errFifo ++ ks ∧ ks.length ≤ 2 := by
  have hgap := toList_length_le s.gapCondition
  have hdrop := toList_length_le s.dropCondition
  have htrailer := toList_length_le s.trailerCondition
  rcases afterByte_cases s with ⟨h, _⟩ | ⟨_, _, _, h⟩ | ⟨_, _, _, hp, h⟩ | ⟨_, _, _, _, h⟩ | ⟨_, _, h⟩
  · exact ⟨[], by simp [h]⟩
  · exact ⟨[], by simp [h]⟩
  · have hno : s.trackHeader.trailerCondition = none := trailerCondition_none (s.trackHeader_hdrPayLen.trans hp)
    refine ⟨s.gapCondition.toList ++ s.dropCondition.toList, by simp [h, hno], ?_⟩
    rw [List.length_append]
    omega
  · refine ⟨s.gapCondition.toList ++ s.dropCondition.toList, by simp [h], ?_⟩
    rw [List.length_append]
    omega
  · exact ⟨s.trailerCondition.toList, by simp [h], by omega⟩

/-- Without a valid header the tracker's registers stay (41_sequence_tracker.md R99). -/
theorem afterByte_tracker {s : State} (hno : s.asm = .hdr → s.bufLen = 13 → s.crcValid = false) :
    s.afterByte.seqValid = s.seqValid ∧ s.afterByte.nextSeq = s.nextSeq ∧ s.afterByte.lastTs = s.lastTs := by
  rcases afterByte_cases s with ⟨h, _⟩ | ⟨_, _, _, h⟩ | ⟨ha, hl, hv, _, h⟩ | ⟨ha, hl, hv, _, h⟩ | ⟨_, _, h⟩
  · simp [h]
  · simp [h]
  · simp [hno ha hl] at hv
  · simp [hno ha hl] at hv
  · simp [h]

/-- A byte that completes neither the header nor the frame is followed by nothing. -/
theorem afterByte_of_incomplete {s : State} (hh : s.asm = .hdr → s.bufLen ≠ 13)
    (hp : s.asm = .pay → s.bufLen ≠ s.expLen) : s.afterByte = s := by
  rcases afterByte_cases s with ⟨h, _⟩ | ⟨ha, hl, _⟩ | ⟨ha, hl, _⟩ | ⟨ha, hl, _⟩ | ⟨ha, hl, _⟩
  · exact h
  · exact absurd hl (hh ha)
  · exact absurd hl (hh ha)
  · exact absurd hl (hh ha)
  · exact absurd hl (hp ha)

/-! ### One fed byte -/

theorem feedByte_cfg {b : Byte} {s t : State} {c : Bool} (h : s.feedByte b = .ok (c, t)) : t.cfg = s.cfg := by
  rcases feedByte_cases h with ⟨_, _, _, rfl⟩ | ⟨_, _, _, rfl⟩ | ⟨_, _, _, rfl⟩ <;> simp

/-- Of `BUF` one byte is written: at `BUF_LEN`, or at 0 when it opens a frame. -/
theorem feedByte_read {b : Byte} {s t : State} {c : Bool} (h : s.feedByte b = .ok (c, t)) {a : Nat}
    (hstart : s.asm = .idle → b = s.cfg.startMagic → a ≠ 0) (hin : s.asm ≠ .idle → a ≠ s.bufLen.toNat) :
    Mem.read t.buf a = Mem.read s.buf a := by
  rcases feedByte_cases h with ⟨ha, hb, _, rfl⟩ | ⟨_, _, _, rfl⟩ | ⟨ha, _, _, rfl⟩
  · rw [startFrame_buf, Mem.read_write, if_neg (hstart ha hb)]
  · rfl
  · rw [afterByte_buf, accumulate_buf, Mem.read_write, if_neg (hin ha)]

/-- The byte that completes the header stands at offset 12. -/
theorem bufLen_eq_of_add_one {n : BitVec 17} (h : n + 1 = 13) : n = 12 :=
  add_right_cancel (h.trans (by decide : (13 : BitVec 17) = 12 + 1))

theorem crcValid_of_crc8 {s : State} {b : Byte} (hl : s.bufLen = 12) (hc : crc8 (Mem.readBytes s.buf 0 12) = b) :
    (s.accumulate b).crcValid = true := by
  rw [crcValid_last b hl, hc, beq_self_eq_true]

/-- `EXP_LEN` holds the frame's length without a wrap (10_state.md R25). -/
theorem expLen_toNat (p : BitVec 16) : (13 + p.zeroExtend 17 + 1 : BitVec 17).toNat = 13 + p.toNat + 1 := by
  have hp := p.isLt
  have hz : (p.zeroExtend 17).toNat = p.toNat := BitVec.toNat_setWidth_of_le (by decide)
  rw [BitVec.toNat_add, BitVec.toNat_add, hz]
  show ((13 + p.toNat) % 2 ^ 17 + 1) % 2 ^ 17 = _
  omega

/-! ### The record of a completed frame -/

theorem frameRecord_payLen (s : State) : s.frameRecord.payLen = s.hdrPayLen := by
  rw [frameRecord_eq]
  rfl

theorem frameRecord_ctl (s : State) : s.frameRecord.ctl = s.hdrCtl := by
  rw [frameRecord_eq]
  rfl

theorem frameRecord_ts (s : State) : s.frameRecord.ts = s.hdrTs := by
  rw [frameRecord_eq]
  rfl

theorem frameRecord_payload (s : State) :
    s.frameRecord.payload = Mem.readBytes s.buf headerSize s.hdrPayLen.toNat := by
  rw [frameRecord_eq]
  rfl

theorem frameRecord_trailer (s : State) :
    s.frameRecord.trailer = if s.hdrPayLen.toNat > 0 then some s.trailerByte else none := by
  rw [frameRecord_eq]
  rfl

end State

/-- Settles O8: the byte is accumulated, and what follows it leaves `BUF` alone. -/
theorem frameByteIsAccumulated : Obligations.FrameByteIsAccumulated := by
  intro s b ha hm
  have hfeed := State.feedOutcome_of_feedByte (State.feedByte_inFrame b ha hm)
  refine ⟨⟨_, (exec_feed b s).trans hfeed, (exec_frameByte b s).trans hfeed, rfl, ?stored⟩,
    fun hhdr hpay => ?incomplete⟩
  case stored =>
    rw [State.setResult_buf, State.afterByte_buf, State.accumulate_buf, Mem.read_write, if_pos rfl]
  case incomplete =>
    rw [exec_feed, hfeed, State.afterByte_of_incomplete hhdr hpay]
    rfl

/-- Settles O9: the cases of a fed byte and of what follows it. -/
theorem feedFrame : Obligations.FeedFrame := by
  intro s t b h
  obtain ⟨c, u, hu, rfl⟩ := State.feedOutcome_next h
  refine ⟨fun a hstart hin => State.feedByte_read hu hstart hin, (State.feedByte_cfg hu :), ?issue, ?records,
    ?conditions⟩ <;>
    rcases State.feedByte_cases hu with ⟨_, _, _, rfl⟩ | ⟨_, _, _, rfl⟩ | ⟨_, _, _, rfl⟩
  case issue.inl => rfl
  case issue.inr.inl => rfl
  case issue.inr.inr => exact State.afterByte_issue _
  case records.inl => exact ⟨[], by simp⟩
  case records.inr.inl => exact ⟨[], by simp⟩
  case records.inr.inr =>
    rcases (s.accumulate b).afterByte_decFifo with h | h
    · exact ⟨[], by simpa using h⟩
    · exact ⟨_, h, by simp⟩
  case conditions.inl => exact ⟨[], by simp⟩
  case conditions.inr.inl => exact ⟨[], by simp⟩
  case conditions.inr.inr => exact (s.accumulate b).afterByte_errFifo

/-- Settles O12: the byte that completes a header at offset 12 decides its CRC test. -/
theorem trackerChangesOnlyOnValidHeaders : Obligations.TrackerChangesOnlyOnValidHeaders := by
  intro s t b h hno
  obtain ⟨c, u, hu, rfl⟩ := State.feedOutcome_next h
  rcases State.feedByte_cases hu with ⟨_, _, _, rfl⟩ | ⟨_, _, _, rfl⟩ | ⟨_, _, _, rfl⟩
  · exact ⟨rfl, rfl, rfl⟩
  · exact ⟨rfl, rfl, rfl⟩
  · refine State.afterByte_tracker (s := s.accumulate b) fun ha hl => ?_
    have hl12 := State.bufLen_eq_of_add_one hl
    rw [State.crcValid_last b hl12, beq_eq_false_iff_ne]
    exact hno ha hl12

/-- Settles O13: a valid header with a payload is tracked and expects the rest. -/
theorem validHeaderWithPayloadExpectsIt : Obligations.ValidHeaderWithPayloadExpectsIt := by
  intro s b ha hl hc hp
  have hfeed := State.feedByte_lastOfHeader b ha hl
  rw [State.headerComplete_payload (State.crcValid_of_crc8 hl hc) hp] at hfeed
  refine ⟨_, State.feedOutcome_of_feedByte hfeed, rfl, ?bufLen, ?expLen, ?decFifo, ?buf⟩
  case bufLen => simp [hl]
  case expLen => exact State.expLen_toNat _
  case decFifo => simp
  case buf => simp [hl]

/-- Settles O14: a valid header without payload is tracked, completed and left. -/
theorem validHeaderWithoutPayloadCompletes : Obligations.ValidHeaderWithoutPayloadCompletes := by
  intro s b ha hl hc hp
  have hfeed := State.feedByte_lastOfHeader b ha hl
  rw [State.headerComplete_noPayload (State.crcValid_of_crc8 hl hc) hp] at hfeed
  refine ⟨_, (s.accumulate b).frameRecord, State.feedOutcome_of_feedByte hfeed, rfl, rfl, ?expLen, ?decFifo,
    ?payLen, ?payload, ?trailer, State.frameRecord_ctl _, State.frameRecord_ts _⟩
  case expLen => simp
  case decFifo => simp [State.trackHeader_frameRecord]
  case payLen => rw [State.frameRecord_payLen, hp]
  case payload => rw [State.frameRecord_payload, hp]; rfl
  case trailer => rw [State.frameRecord_trailer, hp]; rfl

/-- Settles O15: the byte at the trailer position is written past the payload and ends the frame. -/
theorem trailerByteCompletesTheFrame : Obligations.TrailerByteCompletesTheFrame := by
  intro s b ha hm hpos hexp hp
  have htrailer : (s.accumulate b).trailerByte = b := by
    rw [State.trailerByte, State.accumulate_buf, Mem.read_write, if_pos hpos.symm]
  have hafter : (s.accumulate b).afterByte = (s.accumulate b).completeFrame.goIdle := by
    have ha' : (s.accumulate b).asm = .pay := ha
    have hl' : (s.accumulate b).bufLen = (s.accumulate b).expLen := hexp
    simp only [State.afterByte, ha', if_pos hl']
  have hfeed := State.feedByte_inFrame b (by simp [ha]) hm
  rw [hafter] at hfeed
  refine ⟨_, (s.accumulate b).frameRecord, State.feedOutcome_of_feedByte hfeed, rfl, rfl, ?expLen, ?decFifo,
    ?trailer, ?payload, ?errFifo, ?seqValid, ?nextSeq, ?lastTs⟩
  case expLen => simp
  case decFifo => simp
  case trailer =>
    have hpos' : (s.accumulate b).hdrPayLen.toNat > 0 := Nat.pos_of_ne_zero ((toNat_ne_zero_iff _).mpr hp)
    rw [State.frameRecord_trailer, if_pos hpos', htrailer]
  case payload =>
    rw [State.frameRecord_payload, State.accumulate_buf]
    exact Mem.readBytes_write _ _ _ _ _ (.inr hpos.ge)
  case errFifo =>
    simp [State.trailerCondition_toList hp, htrailer]
  case seqValid => simp
  case nextSeq => simp
  case lastTs => simp

end Sys2Proof.Machine
end

section
/-! PROOFS. Reset, the step and the invariants: the assembler's position and its buffer, the configuration and the
queued records, each kept by every step (10_state.md R20, R24, R25, R29). -/

namespace Sys2Proof.Machine

/-! ### Construction, reset and the step -/

theorem exec_reset (x : Byte) (s : State) : exec (.reset x) s = .next (s.resetRegs.setResult .none) := rfl

theorem Mem.read_nil (a : Nat) : Mem.read [] a = Config.unwrittenByte a := rfl

/-- Settles O1: the fields of `State.constructed`, whose buffer is empty. -/
theorem resetLeavesTheRegisterValues : Obligations.ResetLeavesTheRegisterValues :=
  ⟨fun _ => ⟨rfl, rfl, Mem.read_nil, rfl, rfl, rfl, rfl, rfl, rfl, rfl⟩, Cfg.default, rfl⟩

/-- Settles O2: RESET writes every field but the configuration, the buffer and the queue. -/
theorem resetOperationRestoresRegisters : Obligations.ResetOperationRestoresRegisters :=
  ⟨fun s x => exec_reset x s, fun c x => exec_reset x (State.constructed c)⟩

theorem step_of_decoded {s : State} {w : IssueWord} {rest : List IssueWord} {i : Instr}
    (hq : s.issue = w :: rest) (hd : decode s.cfg w = .ok i) : step s = exec i (s.setIssue rest) := by
  simp only [step, State.fetch, hq, hd, State.runFetched]

theorem step_of_rejected {s : State} {w : IssueWord} {rest : List IssueWord} {e : DecodeReject}
    (hq : s.issue = w :: rest) (hd : decode s.cfg w = .error e) : step s = .refused (.undecodable e) := by
  simp only [step, State.fetch, hq, hd, State.runFetched]

theorem step_of_empty {s : State} (hq : s.issue = []) : step s = .next s := by
  simp only [step, State.fetch, hq]

/-- Settles O3: the three ways `fetch` and `runFetched` end. -/
theorem stepRunsTheDecodedInstruction : Obligations.StepRunsTheDecodedInstruction :=
  ⟨fun _ _ _ _ hq hd => step_of_decoded hq hd, fun _ _ _ _ hq hd => step_of_rejected hq hd,
    fun _ hq => step_of_empty hq⟩

/-- A property that every single operation keeps, and that does not look at the queue, every step keeps. -/
theorem step_induct {P : State → Prop} (issue : ∀ (s : State) q, P s → P (s.setIssue q))
    (exec_keeps : ∀ (i : Instr) (s t : State), P s → exec i s = .next t → P t) {s t : State} (hs : P s)
    (h : step s = .next t) : P t := by
  rcases step_cases h with ⟨_, rfl⟩ | ⟨w, rest, i, _, _, h⟩
  · exact hs
  · exact exec_keeps i _ _ (issue s rest hs) h

/-! ### The configuration -/

theorem exec_cfg {i : Instr} {s t : State} (h : exec i s = .next t) : t.cfg = s.cfg :=
  exec_induct (P := fun u => u.cfg = s.cfg) (fun _ _ _ _ hs hu => (State.feedByte_cfg hu).trans hs)
    (fun _ _ hs => hs) (fun _ hs => hs) (fun _ hs => hs) (fun _ hs => hs) (fun _ _ hs => hs) rfl h

/-- Settles O4: no operation writes the configuration, and the word that would is no encoding. -/
theorem configurationIsNeverWritten : Obligations.ConfigurationIsNeverWritten :=
  ⟨fun _ _ _ h => exec_cfg h, fun _ _ _ hq => step_of_rejected hq rfl⟩

/-! ### The invariant of the assembler -/

namespace State

/-- `Inv` looks at the configuration, the buffer and the assembler's registers alone. -/
theorem Inv.congr {s t : State} (h : s.Inv) (hcfg : t.cfg = s.cfg) (hasm : t.asm = s.asm) (hbuf : t.buf = s.buf)
    (hlen : t.bufLen = s.bufLen) (hexp : t.expLen = s.expLen) : t.Inv where
  memWf := hbuf ▸ h.memWf
  memWithin := by rw [hbuf, hcfg]; exact h.memWithin
  memCovers := by rw [hbuf, hlen]; exact h.memCovers
  position := by
    have hpos := h.position
    unfold State.position at hpos ⊢
    rwa [hasm, hlen, hexp, hdrPayLen_congr hcfg hbuf]

theorem position_of_idle {s : State} (ha : s.asm = .idle) (hl : s.bufLen = 0) : s.position := by
  unfold position
  rw [ha]
  exact hl

/-- An idle block needs no byte of its buffer. -/
theorem inv_of_idle {s : State} (hwf : Mem.wf s.buf) (hin : Mem.within s.buf s.cfg.frameMax) (ha : s.asm = .idle)
    (hl : s.bufLen = 0) : s.Inv where
  memWf := hwf
  memWithin := hin
  memCovers := fun a h => absurd h (by simp [hl])
  position := position_of_idle ha hl

theorem position_hdr {s : State} (h : s.position) (ha : s.asm = .hdr) :
    1 ≤ s.bufLen.toNat ∧ s.bufLen.toNat < headerSize := by
  unfold position at h
  rwa [ha] at h

theorem position_pay {s : State} (h : s.position) (ha : s.asm = .pay) :
    headerSize ≤ s.bufLen.toNat ∧ s.bufLen.toNat < s.expLen.toNat ∧
      s.expLen.toNat = headerSize + s.hdrPayLen.toNat + 1 := by
  unfold position at h
  rwa [ha] at h

/-- The frame that a header declares fits the buffer (00_scope.md R7). -/
theorem frame_le_frameMax (s : State) : headerSize + s.hdrPayLen.toNat + 1 ≤ s.cfg.frameMax := by
  unfold hdrPayLen Cfg.frameMax headerSize
  cases s.cfg.variant with
  | base =>
    have := (basePayLen s.header).isLt
    simp only
    omega
  | extended =>
    have := (byteAt s.header 11).isLt
    have hz : ((byteAt s.header 11).zeroExtend 16).toNat = (byteAt s.header 11).toNat :=
      BitVec.toNat_setWidth_of_le (by decide)
    simp only [hz]
    omega

/-- Inside a frame `BUF` has a byte at `BUF_LEN`. -/
theorem bufLen_lt_frameMax {s : State} (h : s.position) (ha : s.asm ≠ .idle) :
    s.bufLen.toNat < s.cfg.frameMax := by
  cases hs : s.asm with
  | idle => exact absurd hs ha
  | hdr =>
    obtain ⟨_, hlt⟩ := position_hdr h hs
    exact hlt.trans (frameMax_gt s.cfg)
  | pay =>
    obtain ⟨_, hlt, hexp⟩ := position_pay h hs
    have := s.frame_le_frameMax
    omega

theorem setResult_inv {s : State} (h : s.Inv) (r : OpResult) : (s.setResult r).Inv := h.congr rfl rfl rfl rfl rfl

theorem startFrame_position (b : Byte) (s : State) : (s.startFrame b).position := by
  show 1 ≤ (1 : BitVec 17).toNat ∧ (1 : BitVec 17).toNat < headerSize
  decide

/-- Opening a frame covers the one byte of it. -/
theorem startFrame_inv {s : State} (h : s.Inv) (b : Byte) : (s.startFrame b).Inv where
  memWf := Mem.write_wf h.memWf 0 b
  memWithin := Mem.write_within h.memWithin (Nat.zero_lt_of_lt (frameMax_gt s.cfg))
  memCovers := Mem.write_covers b fun _ ha => absurd ha (Nat.not_lt_zero _)
  position := startFrame_position b s

/-- A byte that completes nothing moves the position by one. -/
theorem accumulate_position {s : State} (b : Byte) (h : s.position) (ha : s.asm ≠ .idle)
    (hh : s.asm = .hdr → (s.accumulate b).bufLen ≠ 13)
    (hp : s.asm = .pay → (s.accumulate b).bufLen ≠ s.expLen) : (s.accumulate b).position := by
  have hl := accumulate_bufLen_toNat b ((bufLen_lt_frameMax h ha).trans_le (frameMax_le s.cfg))
  unfold position
  rw [accumulate_asm, hl]
  cases hs : s.asm with
  | idle => exact absurd hs ha
  | hdr =>
    obtain ⟨_, hlt⟩ := position_hdr h hs
    have hne : s.bufLen.toNat + 1 ≠ 13 := fun e => hh hs (BitVec.eq_of_toNat_eq (hl.trans e))
    simp only [headerSize] at hlt ⊢
    omega
  | pay =>
    obtain ⟨hge, hlt, hexp⟩ := position_pay h hs
    have hne : s.bufLen.toNat + 1 ≠ s.expLen.toNat := fun e => hp hs (BitVec.eq_of_toNat_eq (hl.trans e))
    have hpay : (s.accumulate b).hdrPayLen = s.hdrPayLen := by
      rw [hdrPayLen, hdrPayLen, header_accumulate b hge, accumulate_cfg]
    simp only [accumulate_expLen, hpay]
    omega

/-- A valid header that declares a payload leaves the block before the payload's first byte. -/
theorem expectPayload_position {s t : State} (hl : s.bufLen = 13) (hp : s.hdrPayLen ≠ 0) (ha : t.asm = .pay)
    (htl : t.bufLen = s.bufLen) (hexp : t.expLen = 13 + s.hdrPayLen.zeroExtend 17 + 1)
    (hpay : t.hdrPayLen = s.hdrPayLen) : t.position := by
  have h13 : s.bufLen.toNat = 13 := by rw [hl]; rfl
  have hpos : s.hdrPayLen.toNat ≠ 0 := (toNat_ne_zero_iff _).mpr hp
  unfold position
  rw [ha]
  simp only [htl, hexp, hpay, expLen_toNat, h13, headerSize, and_true]
  omega

/-- What follows an accumulated byte leaves `BUF_LEN` where it is, or at 0. -/
theorem afterByte_bufLen (s : State) : s.afterByte.bufLen = s.bufLen ∨ s.afterByte.bufLen = 0 := by
  rcases afterByte_cases s with ⟨h, _⟩ | ⟨_, _, _, h⟩ | ⟨_, _, _, _, h⟩ | ⟨_, _, _, _, h⟩ | ⟨_, _, h⟩
  · exact .inl (by rw [h])
  · exact .inr (by rw [h, goIdle_bufLen])
  · exact .inr (by rw [h, goIdle_bufLen])
  · exact .inl (by rw [h, expectPayload_bufLen, trackHeader_bufLen])
  · exact .inr (by rw [h, goIdle_bufLen])

/-- A byte accumulated inside a frame leaves a legal position, whether it ends the header or the frame or neither. -/
theorem accumulate_afterByte_position {s : State} (b : Byte) (h : s.position) (ha : s.asm ≠ .idle) :
    (s.accumulate b).afterByte.position := by
  rcases afterByte_cases (s.accumulate b) with ⟨e, hh, hp⟩ | ⟨_, _, _, e⟩ | ⟨_, _, _, _, e⟩ | ⟨_, hl, _, hne, e⟩ |
    ⟨_, _, e⟩
  · rw [e]
    exact accumulate_position b h ha hh hp
  · exact position_of_idle (by rw [e, goIdle_asm]) (by rw [e, goIdle_bufLen])
  · exact position_of_idle (by rw [e, goIdle_asm]) (by rw [e, goIdle_bufLen])
  · exact expectPayload_position hl hne (by rw [e, expectPayload_asm])
      (by rw [e, expectPayload_bufLen, trackHeader_bufLen]) (by rw [e, expectPayload_expLen])
      (hdrPayLen_congr (afterByte_cfg _) (afterByte_buf _))
  · exact position_of_idle (by rw [e, goIdle_asm]) (by rw [e, goIdle_bufLen])

/-- A byte accumulated inside a frame keeps the invariant: `BUF` gains the byte at `BUF_LEN`. -/
theorem accumulate_afterByte_inv {s : State} (h : s.Inv) (b : Byte) (ha : s.asm ≠ .idle)
    (hm : s.bufLen.toNat < s.cfg.frameMax) : (s.accumulate b).afterByte.Inv where
  memWf := by
    rw [afterByte_buf]
    exact Mem.write_wf h.memWf _ b
  memWithin := by
    rw [afterByte_buf, afterByte_cfg]
    exact Mem.write_within h.memWithin hm
  memCovers := by
    rw [afterByte_buf]
    rcases afterByte_bufLen (s.accumulate b) with hl | hl <;> rw [hl]
    · rw [accumulate_bufLen_toNat b (hm.trans_le (frameMax_le s.cfg))]
      exact Mem.write_covers b h.memCovers
    · exact fun _ hlt => absurd hlt (Nat.not_lt_zero _)
  position := accumulate_afterByte_position b h.position ha

/-- A fed byte keeps the invariant. -/
theorem feedByte_inv {b : Byte} {s t : State} {c : Bool} (h : s.Inv) (hf : s.feedByte b = .ok (c, t)) : t.Inv := by
  rcases feedByte_cases hf with ⟨_, _, _, rfl⟩ | ⟨_, _, _, rfl⟩ | ⟨ha, hm, _, rfl⟩
  · exact startFrame_inv h b
  · exact h
  · exact accumulate_afterByte_inv h b ha hm

theorem constructed_inv (c : Cfg) : (constructed c).Inv :=
  inv_of_idle (constructed_buf_wf c) (fun _ hx => absurd hx List.not_mem_nil) rfl rfl

theorem resetRegs_inv {s : State} (h : s.Inv) : s.resetRegs.Inv := inv_of_idle h.memWf h.memWithin rfl rfl

end State

theorem exec_inv {i : Instr} {s t : State} (hs : s.Inv) (h : exec i s = .next t) : t.Inv :=
  exec_induct (P := State.Inv) (fun _ _ _ _ hs hf => State.feedByte_inv hs hf) (fun _ r hs => State.setResult_inv hs r)
    (fun _ hs => hs.congr rfl rfl rfl rfl rfl) (fun _ hs => hs.congr rfl rfl rfl rfl rfl)
    (fun _ hs => State.resetRegs_inv hs) (fun _ _ hs => hs.congr rfl rfl rfl rfl rfl) hs h

/-- Settles O24: a constructed instance is idle with an empty buffer. -/
theorem invariantHoldsAtReset : Obligations.InvariantHoldsAtReset :=
  ⟨State.constructed_inv, State.constructed_inv Cfg.default⟩

/-- Settles O25: a fed byte is the one operation that touches what `Inv` looks at, but for RESET. -/
theorem invariantIsKeptByEveryStep : Obligations.InvariantIsKeptByEveryStep := fun _ _ hs h =>
  step_induct (fun _ _ hs => hs.congr rfl rfl rfl rfl rfl) (fun _ _ _ hs h => exec_inv hs h) hs h

/-! ### Completion -/

namespace State

theorem feedByte_completes {s : State} (h : s.Inv) (b : Byte) : ∃ c t, s.feedByte b = .ok (c, t) := by
  cases hf : s.feedByte b with
  | ok r => exact ⟨r.1, r.2, rfl⟩
  | error f =>
    obtain ⟨ha, hm⟩ := feedByte_error hf
    exact absurd (bufLen_lt_frameMax h.position ha) (Nat.not_lt.mpr hm)

theorem feedAll_completes (bs : Bytes) {s : State} (h : s.Inv) : ∃ cs t, s.feedAll bs = .ok (cs, t) := by
  induction bs generalizing s with
  | nil => exact ⟨[], s, rfl⟩
  | cons b bs ih =>
    obtain ⟨c, u, hu⟩ := feedByte_completes h b
    obtain ⟨cs, t, ht⟩ := ih (feedByte_inv h hu)
    exact ⟨c :: cs, t, by simp only [feedAll, hu, ht]⟩

end State

/-- From a state that meets the invariant every instruction answers a next state. -/
theorem exec_completes (i : Instr) {s : State} (h : s.Inv) : ∃ t, exec i s = .next t := by
  rcases exec_cases i s with ⟨b, e⟩ | ⟨bs, e⟩ | e | e | e | ⟨f, e⟩
  · obtain ⟨c, u, hu⟩ := State.feedByte_completes h b
    exact ⟨_, e.trans (State.feedOutcome_of_feedByte hu)⟩
  · obtain ⟨cs, u, hu⟩ := State.feedAll_completes bs h
    exact ⟨_, by rw [e, State.feedAllOutcome, hu]⟩
  · exact ⟨_, e⟩
  · exact ⟨_, e⟩
  · exact ⟨_, e⟩
  · exact ⟨_, e⟩

/-- Settles O23: the nine rows are instances of `exec_completes`. -/
theorem hostOperationsAlwaysComplete : Obligations.HostOperationsAlwaysComplete := fun _ h =>
  ⟨fun b => ⟨exec_completes (.feed b) h, exec_completes (.idleRaw b) h, exec_completes (.frameByte b) h⟩,
    exec_completes .idleStartMagic h, fun f => exec_completes (.baseFrame f) h, fun f => exec_completes (.extFrame f) h,
    fun x => ⟨exec_completes (.takeDecoded x) h, exec_completes (.takeErrors x) h, exec_completes (.reset x) h⟩⟩

/-- Settles O26: a word that decodes runs an instruction, which completes; an operation word always decodes. -/
theorem noStepFaults : Obligations.NoStepFaults := by
  intro s h
  have hset (q : List IssueWord) : (s.setIssue q).Inv := h.congr rfl rfl rfl rfl rfl
  refine ⟨fun f hf => ?noFault, fun op rest hq => ?runs⟩
  case noFault =>
    cases hq : s.issue with
    | nil => rw [step_of_empty hq] at hf; cases hf
    | cons w rest =>
      cases hd : decode s.cfg w with
      | error e => rw [step_of_rejected hq hd] at hf; cases hf
      | ok i =>
        obtain ⟨t, ht⟩ := exec_completes i (hset rest)
        rw [step_of_decoded hq hd, ht] at hf
        cases hf
  case runs =>
    obtain ⟨t, ht⟩ := exec_completes (decodeHostop op) (hset rest)
    exact ⟨t, (step_of_decoded hq (decode_hostop s.cfg op)).trans ht⟩

/-! ### The queued records -/

theorem FrameRec.Ok.of_headerRec {s : State} {r : FrameRec} (hr : r = { s.headerRec with
      items := r.items, extItems := r.extItems, badLen := r.badLen, text := r.text })
    (hitems : s.cfg.variant = .extended → r.items = []) (hext : s.cfg.variant = .base → r.extItems = []) :
    FrameRec.Ok s.cfg.variant r where
  variant := by rw [hr]; rfl
  seq := by rw [hr]; rfl
  dropped := by rw [hr]; rfl
  nparam := by rw [hr]; rfl
  payload := by rw [hr]; exact Mem.readBytes_length ..
  trailer := by
    rw [hr]
    simp only [State.headerRec]
    by_cases h : 0 < s.hdrPayLen.toNat <;> simp [h]
  litLen := by
    rw [hr]
    simp only [State.headerRec]
    cases s.cfg.variant <;> simp
  strIndex := by
    rw [hr]
    simp only [State.headerRec]
    cases s.cfg.variant <;> simp
  items := hitems
  extItems := hext

namespace State

/-- The record of a completed frame is well-formed: an extraction writes the items of its own variant alone. -/
theorem frameRecord_ok (s : State) : FrameRec.Ok s.cfg.variant s.frameRecord := by
  refine FrameRec.Ok.of_headerRec s.frameRecord_eq (fun hv => ?_) (fun hv => ?_)
  · have hk := Work.extKeeps_extDecode s.cfg (Work.start s.headerRec)
    rw [frameRecord, Work.decodeFrame, hv]
    exact congrArg FrameRec.items hk
  · have hk := Work.baseKeeps_baseDecode s.cfg (Work.start s.headerRec)
    rw [frameRecord, Work.decodeFrame, hv]
    exact congrArg FrameRec.extItems hk

theorem recordsOk_append {s t : State} {u : State} (h : s.recordsOk) (hcfg : t.cfg = s.cfg) (hu : u.cfg = s.cfg)
    (hd : t.decFifo = s.decFifo ∨ t.decFifo = s.decFifo ++ [u.frameRecord]) : t.recordsOk := by
  intro r hr
  rw [hcfg]
  rcases hd with hd | hd <;> rw [hd] at hr
  · exact h r hr
  · rcases List.mem_append.mp hr with hr | hr
    · exact h r hr
    · rw [List.mem_singleton.mp hr, ← hu]
      exact u.frameRecord_ok

theorem feedByte_recordsOk {b : Byte} {s t : State} {c : Bool} (h : s.recordsOk) (hf : s.feedByte b = .ok (c, t)) :
    t.recordsOk := by
  rcases feedByte_cases hf with ⟨_, _, _, rfl⟩ | ⟨_, _, _, rfl⟩ | ⟨_, _, _, rfl⟩
  · exact h
  · exact h
  · exact recordsOk_append (u := s.accumulate b) h (afterByte_cfg _) rfl (s.accumulate b).afterByte_decFifo

end State

theorem exec_recordsOk {i : Instr} {s t : State} (hs : s.recordsOk) (h : exec i s = .next t) : t.recordsOk :=
  exec_induct (P := State.recordsOk) (fun _ _ _ _ hs hf => State.feedByte_recordsOk hs hf) (fun _ _ hs => hs)
    (fun _ _ _ hr => absurd hr List.not_mem_nil) (fun _ hs => hs) (fun _ _ _ hr => absurd hr List.not_mem_nil)
    (fun _ _ hs => hs) hs h

/-- Settles O27: a record joins DEC_FIFO only when a fed byte completes its frame. -/
theorem recordsStayWellFormed : Obligations.RecordsStayWellFormed :=
  ⟨fun _ hr => absurd hr List.not_mem_nil,
    fun _ _ hs h => step_induct (fun _ _ hs => hs) (fun _ _ _ hs h => exec_recordsOk hs h) hs h⟩

end Sys2Proof.Machine
end

section
/-! PROOFS. A whole frame fed to an idle instance: its header, its payload and its trailer, one run of bytes after
the other, and the record of the bytes that `BUF` then holds (40_frame_assembler.md R70 to R79). -/

namespace Sys2Proof.Machine

theorem exec_baseFrame (f : BaseFrame) (s : State) : exec (.baseFrame f) s = s.feedAllOutcome f.bytes := rfl

theorem exec_extFrame (f : ExtFrame) (s : State) : exec (.extFrame f) s = s.feedAllOutcome f.bytes := rfl

/-! ### Reading back a frame's parts -/

/-- A part in the middle of what was written. -/
theorem Mem.readBytes_writeAll_middle (m : Mem) (pre d post : Bytes) :
    Mem.readBytes (Mem.writeAll m 0 (pre ++ (d ++ post))) pre.length d.length = d := by
  rw [Mem.writeAll_append, Nat.zero_add]
  exact Mem.readBytes_writeAll_prefix _ _ d post

/-- The byte after two parts. -/
theorem Mem.read_writeAll_last (m : Mem) (pre d : Bytes) (x : Byte) :
    Mem.read (Mem.writeAll m 0 (pre ++ (d ++ [x]))) (pre.length + d.length) = x := by
  rw [← List.append_assoc, Mem.writeAll_append, Nat.zero_add, List.length_append, Mem.writeAll, Mem.writeAll,
    Mem.read_write, if_pos rfl]

namespace State

theorem feedAll_singleton {s t : State} {b : Byte} {c : Bool} (h : s.feedByte b = .ok (c, t)) :
    s.feedAll [b] = .ok ([c], t) := by
  simp only [feedAll, h]

theorem feedAllOutcome_of_feedAll {bs : Bytes} {cs : List Bool} {s t : State} (h : s.feedAll bs = .ok (cs, t)) :
    s.feedAllOutcome bs = .next (t.setResult (.consumedEach cs)) := by
  rw [feedAllOutcome, h]

/-! ### The header -/

/-- The state in the middle of a header that began with these bytes. -/
def inHeader (bs : Bytes) (s : State) : State :=
  { s with asm := .hdr, buf := Mem.writeAll s.buf 0 bs, bufLen := BitVec.ofNat 17 bs.length }

/-- Bytes accumulated in a header lengthen it. -/
theorem inHeader_accumulateAll (bs cs : Bytes) (s : State) (h : bs.length < 2 ^ 17) :
    (s.inHeader bs).accumulateAll cs = s.inHeader (bs ++ cs) := by
  have hl : (s.inHeader bs).bufLen.toNat = bs.length := by
    rw [inHeader, BitVec.toNat_ofNat, Nat.mod_eq_of_lt h]
  simp only [accumulateAll, hl]
  simp only [inHeader, Mem.writeAll_append, Nat.zero_add, List.length_append, BitVec.ofNat_add]

/-- The first 12 bytes of a frame are stored. -/
theorem feedAll_header {s : State} {hd : Bytes} (ha : s.asm = .idle) (hlen : hd.length = 12)
    (hmagic : hd.head? = some s.cfg.startMagic) :
    s.feedAll hd = .ok (List.replicate 12 true, s.inHeader hd) := by
  obtain ⟨tl, rfl⟩ : ∃ tl, hd = s.cfg.startMagic :: tl := by
    cases hd with
    | nil => cases hlen
    | cons b tl => exact ⟨tl, by rw [Option.some.inj hmagic]⟩
  have htl : tl.length = 11 := Nat.succ.inj hlen
  have hmax := frameMax_gt s.cfg
  have hfirst := feedAll_singleton (feedByte_idle_startMagic ha)
  have htail : (s.inHeader [s.cfg.startMagic]).feedAll tl =
      .ok (List.replicate tl.length true, (s.inHeader [s.cfg.startMagic]).accumulateAll tl) := by
    refine feedAll_middle tl (by simp [inHeader]) ?_ (fun _ => ?_) (fun h => by cases h)
    · show 1 + tl.length ≤ s.cfg.frameMax
      omega
    · show 1 + tl.length < 13
      omega
  have hone : [s.cfg.startMagic].length < 2 ^ 17 := by rw [List.length_singleton]; decide
  rw [inHeader_accumulateAll _ _ _ hone, htl] at htail
  exact feedAll_append _ _ s hfirst htail

/-- The CRC byte that fits completes the header (40_frame_assembler.md R73). -/
theorem feedByte_crc {s : State} {hd : Bytes} (hlen : hd.length = 12) :
    (s.inHeader hd).feedByte (crc8 hd) = .ok (true, (s.inHeader (hd ++ [crc8 hd])).headerComplete) ∧
    (s.inHeader (hd ++ [crc8 hd])).crcValid = true := by
  have hl : (s.inHeader hd).bufLen = 12 := by rw [inHeader, hlen]; rfl
  have hacc : (s.inHeader hd).accumulate (crc8 hd) = s.inHeader (hd ++ [crc8 hd]) :=
    inHeader_accumulateAll hd [crc8 hd] s (by omega)
  have hread : Mem.readBytes (s.inHeader hd).buf 0 12 = hd := hlen ▸ Mem.readBytes_writeAll s.buf 0 hd
  rw [← hacc]
  exact ⟨feedByte_lastOfHeader _ rfl hl, crcValid_of_crc8 hl (by rw [hread])⟩

/-! ### The state that holds a whole frame -/

/-- The state with the bytes of a frame in `BUF`, in which the record, the conditions and the tracker's new values
of that frame are read. -/
def holding (bs : Bytes) (s : State) : State := { s with buf := Mem.writeAll s.buf 0 bs }

/-- The header is the first 13 of the bytes held. -/
theorem holding_header {hd : Bytes} {crc : Byte} (rest : Bytes) (s : State) (hlen : hd.length = 12) :
    (s.holding (hd ++ crc :: rest)).header = hd ++ [crc] := by
  have hread := Mem.readBytes_writeAll_prefix s.buf 0 (hd ++ [crc]) rest
  rw [List.append_assoc, List.length_append, hlen] at hread
  exact hread

/-! What a header says depends on its bytes and the configuration, the gap test on the tracker too. -/

theorem hdrCtl_congr_header {s t : State} (hh : s.header = t.header) : s.hdrCtl = t.hdrCtl := by
  rw [hdrCtl, hdrCtl, hh]

theorem hdrTs_congr_header {s t : State} (hc : s.cfg = t.cfg) (hh : s.header = t.header) : s.hdrTs = t.hdrTs := by
  rw [hdrTs, hdrTs, hc, hh]

theorem hdrPayLen_congr_header {s t : State} (hc : s.cfg = t.cfg) (hh : s.header = t.header) :
    s.hdrPayLen = t.hdrPayLen := by
  rw [hdrPayLen, hdrPayLen, hc, hh]

theorem gapCondition_congr {s t : State} (hc : s.cfg = t.cfg) (hh : s.header = t.header)
    (hts : s.lastTs = t.lastTs) (hv : s.seqValid = t.seqValid) (hn : s.nextSeq = t.nextSeq) :
    s.gapCondition = t.gapCondition := by
  unfold gapCondition gap expectedSeq rebooted
  rw [hdrTs_congr_header hc hh, hdrCtl_congr_header hh, hts, hv, hn]

theorem dropCondition_congr {s t : State} (hh : s.header = t.header) : s.dropCondition = t.dropCondition := by
  unfold dropCondition senderDropped
  rw [hdrCtl_congr_header hh]

/-- What a whole frame, held in `v`, does to an idle instance `s`. -/
structure DecodesWhole (s v t : State) : Prop where
  asm : t.asm = .idle
  bufLen : t.bufLen = 0
  decFifo : t.decFifo = s.decFifo ++ [v.frameRecord]
  seqValid : t.seqValid = true
  nextSeq : t.nextSeq = ctlSeq v.hdrCtl + 1
  lastTs : t.lastTs = v.hdrTs
  errFifo : t.errFifo =
    s.errFifo ++ v.gapCondition.toList ++ v.dropCondition.toList ++ v.trailerCondition.toList

/-- A header tracked in a state that agrees with `v` on the header, and a frame completed in one that agrees with it
on the buffer, do together what a whole frame does. -/
theorem DecodesWhole.of_track_complete {s h v u : State} (hc : h.cfg = v.cfg) (hh : h.header = v.header)
    (hts : h.lastTs = v.lastTs) (hv : h.seqValid = v.seqValid) (hn : h.nextSeq = v.nextSeq)
    (hd : h.decFifo = s.decFifo) (he : h.errFifo = s.errFifo)
    (uc : u.cfg = v.cfg) (ub : u.buf = v.buf) (ud : u.decFifo = h.trackHeader.decFifo)
    (ue : u.errFifo = h.trackHeader.errFifo) (uv : u.seqValid = h.trackHeader.seqValid)
    (un : u.nextSeq = h.trackHeader.nextSeq) (ut : u.lastTs = h.trackHeader.lastTs) :
    DecodesWhole s v u.completeFrame.goIdle where
  asm := rfl
  bufLen := rfl
  decFifo := by
    rw [goIdle_decFifo, completeFrame_decFifo, ud, trackHeader_decFifo, hd, frameRecord_congr uc ub]
  seqValid := by rw [goIdle_seqValid, completeFrame_seqValid, uv, trackHeader_seqValid]
  nextSeq := by rw [goIdle_nextSeq, completeFrame_nextSeq, un, trackHeader_nextSeq, hdrCtl_congr_header hh]
  lastTs := by rw [goIdle_lastTs, completeFrame_lastTs, ut, trackHeader_lastTs, hdrTs_congr_header hc hh]
  errFifo := by
    rw [goIdle_errFifo, completeFrame_errFifo, ue, trackHeader_errFifo, he, gapCondition_congr hc hh hts hv hn,
      dropCondition_congr hh, trailerCondition_congr uc ub]

/-- The payload and the trailer of a frame that has one, fed to the state after its header. -/
theorem feedAll_payload {u : State} {payload : Bytes} (x : Byte) (ha : u.asm = .pay) (hl : u.bufLen = 13)
    (hexp : u.expLen.toNat = 13 + payload.length + 1) (hmax : 13 + payload.length + 1 ≤ u.cfg.frameMax) :
    u.feedAll (payload ++ [x]) = .ok (List.replicate (payload.length + 1) true,
      (u.accumulateAll (payload ++ [x])).completeFrame.goIdle) := by
  have hl13 : u.bufLen.toNat = 13 := by rw [hl]; rfl
  have hle := frameMax_le u.cfg
  have hpayload := feedAll_middle (s := u) payload (by simp [ha]) (by omega) (by simp [ha]) (fun _ => by omega)
  have hlen : (u.accumulateAll payload).bufLen.toNat = 13 + payload.length := by
    rw [accumulateAll, BitVec.toNat_add, BitVec.toNat_ofNat, hl13]
    omega
  have hacc : (u.accumulateAll payload).accumulate x = u.accumulateAll (payload ++ [x]) := by
    simp only [accumulate, hlen]
    simp only [accumulateAll, Mem.writeAll_append, hl13, Mem.writeAll, List.length_append, List.length_singleton,
      BitVec.ofNat_add, BitVec.add_assoc]
    rfl
  have hend : (u.accumulateAll (payload ++ [x])).afterByte =
      (u.accumulateAll (payload ++ [x])).completeFrame.goIdle := by
    have hpay : (u.accumulateAll (payload ++ [x])).asm = .pay := ha
    have hfull : (u.accumulateAll (payload ++ [x])).bufLen = (u.accumulateAll (payload ++ [x])).expLen := by
      apply BitVec.eq_of_toNat_eq
      rw [← hacc, accumulate_bufLen_toNat x (by omega), hlen]
      exact hexp.symm
    simp only [afterByte, hpay, if_pos hfull]
  have hlast := feedByte_inFrame (s := u.accumulateAll payload) x (by simp [accumulateAll, ha])
    (by rw [hlen]; exact hmax)
  rw [hacc, hend] at hlast
  have hall := feedAll_append _ _ u hpayload (feedAll_singleton hlast)
  rwa [← List.replicate_succ'] at hall

/-- A header that declares no payload is the whole frame. -/
theorem feedAll_headerOnly {s : State} {hd : Bytes} (ha : s.asm = .idle) (hlen : hd.length = 12)
    (hmagic : hd.head? = some s.cfg.startMagic) (hpay : (s.holding (hd ++ [crc8 hd])).hdrPayLen = 0) :
    ∃ t, s.feedAll (hd ++ [crc8 hd]) = .ok (List.replicate 13 true, t) ∧
      DecodesWhole s (s.holding (hd ++ [crc8 hd])) t := by
  obtain ⟨hcrc, hvalid⟩ := feedByte_crc (s := s) hlen
  rw [headerComplete_noPayload hvalid hpay] at hcrc
  refine ⟨_, feedAll_append _ _ s (feedAll_header ha hlen hmagic) (feedAll_singleton hcrc), ?_⟩
  exact DecodesWhole.of_track_complete (h := s.inHeader (hd ++ [crc8 hd])) rfl rfl rfl rfl rfl rfl rfl
    (trackHeader_cfg _) (trackHeader_buf _) rfl rfl rfl rfl rfl

/-- A header that declares a payload is followed by the payload and the trailer. -/
theorem feedAll_withPayload {s : State} {hd payload : Bytes} {x : Byte} {bs : Bytes}
    (hbs : bs = (hd ++ [crc8 hd]) ++ (payload ++ [x])) (ha : s.asm = .idle) (hlen : hd.length = 12)
    (hmagic : hd.head? = some s.cfg.startMagic) (hpay : payload.length = (s.holding bs).hdrPayLen.toNat)
    (hne : (s.holding bs).hdrPayLen ≠ 0) :
    ∃ t, s.feedAll bs = .ok (List.replicate bs.length true, t) ∧ DecodesWhole s (s.holding bs) t := by
  obtain ⟨hcrc, hvalid⟩ := feedByte_crc (s := s) hlen
  have hheader : (s.inHeader (hd ++ [crc8 hd])).header = (s.holding bs).header := by
    rw [hbs, List.append_assoc]
    exact (holding_header [] s hlen).trans (holding_header _ s hlen).symm
  have hlen' : (s.inHeader (hd ++ [crc8 hd])).hdrPayLen = (s.holding bs).hdrPayLen :=
    hdrPayLen_congr_header rfl hheader
  have hmax : 13 + payload.length + 1 ≤ s.cfg.frameMax := by
    rw [hpay]
    exact (s.holding bs).frame_le_frameMax
  have hl13 : (hd ++ [crc8 hd]).length = 13 := by rw [List.length_append, hlen]; rfl
  have hlen13 : (s.inHeader (hd ++ [crc8 hd])).bufLen = 13 := by rw [inHeader, hl13]; rfl
  rw [headerComplete_payload hvalid (hlen' ▸ hne)] at hcrc
  have hbody := feedAll_payload (u := (s.inHeader (hd ++ [crc8 hd])).trackHeader.expectPayload
      (13 + (s.inHeader (hd ++ [crc8 hd])).hdrPayLen.zeroExtend 17 + 1)) (payload := payload) x rfl
    (by rw [expectPayload_bufLen, trackHeader_bufLen, hlen13])
    (by rw [expectPayload_expLen, expLen_toNat, hlen', hpay])
    (by rw [expectPayload_cfg, trackHeader_cfg]; exact hmax)
  have hhead := feedAll_append _ _ s (feedAll_header ha hlen hmagic) (feedAll_singleton hcrc)
  have hall := feedAll_append _ _ s hhead hbody
  have hcount : List.replicate 12 true ++ [true] ++ List.replicate (payload.length + 1) true =
      List.replicate bs.length true := by
    rw [hbs, List.length_append, hl13, List.length_append, List.length_singleton, List.replicate_add 13]
    rfl
  have hbuf : Mem.writeAll (s.inHeader (hd ++ [crc8 hd])).trackHeader.buf
      (s.inHeader (hd ++ [crc8 hd])).trackHeader.bufLen.toNat (payload ++ [x]) = (s.holding bs).buf := by
    have happ := Mem.writeAll_append s.buf 0 (hd ++ [crc8 hd]) (payload ++ [x])
    rw [hl13, ← hbs] at happ
    rw [trackHeader_buf, trackHeader_bufLen, hlen13]
    exact happ.symm
  rw [hcount, ← hbs] at hall
  exact ⟨_, hall, DecodesWhole.of_track_complete (h := s.inHeader (hd ++ [crc8 hd])) rfl hheader rfl rfl rfl rfl rfl
    (trackHeader_cfg _) hbuf rfl rfl rfl rfl rfl⟩

/-- A whole frame with a right CRC byte, whose payload and trailer are those its header declares, fed to
an idle instance. -/
theorem feedAll_wholeFrame {s : State} {hd payload : Bytes} {trailer : Option Byte} {bs : Bytes}
    (hbs : bs = hd ++ crc8 hd :: (payload ++ trailer.toList)) (ha : s.asm = .idle) (hlen : hd.length = 12)
    (hmagic : hd.head? = some s.cfg.startMagic) (hpay : payload.length = (s.holding bs).hdrPayLen.toNat)
    (htrailer : trailer.isSome = true ↔ (s.holding bs).hdrPayLen.toNat ≠ 0) :
    ∃ t, s.feedAll bs = .ok (List.replicate bs.length true, t) ∧ DecodesWhole s (s.holding bs) t := by
  cases trailer with
  | none =>
    have hzero : (s.holding bs).hdrPayLen.toNat = 0 := by simpa using htrailer
    have hnil : payload = [] := List.length_eq_zero_iff.mp (hpay.trans hzero)
    have hshort : bs = hd ++ [crc8 hd] := by rw [hbs, hnil]; rfl
    subst hshort
    rw [List.length_append, hlen]
    exact feedAll_headerOnly ha hlen hmagic (BitVec.eq_of_toNat_eq hzero)
  | some x =>
    have hne : (s.holding bs).hdrPayLen.toNat ≠ 0 := htrailer.mp rfl
    exact feedAll_withPayload (by rw [hbs, List.append_assoc]; rfl) ha hlen hmagic hpay ((toNat_ne_zero_iff _).mp hne)

/-! ### What is read in the state that holds a whole frame -/

/-- The payload is the frame's own. -/
theorem holding_payload (s : State) {pre payload : Bytes} (post : Bytes) (hlen : pre.length = 13) :
    Mem.readBytes (s.holding (pre ++ (payload ++ post))).buf headerSize payload.length = payload := by
  have hread := Mem.readBytes_writeAll_middle s.buf pre payload post
  rwa [hlen] at hread

/-- A frame with a payload has its trailer at the trailer position; one without has none. -/
theorem holding_trailer {s : State} {pre payload : Bytes} {trailer : Option Byte} {bs : Bytes}
    (hbs : bs = pre ++ (payload ++ trailer.toList)) (hlen : pre.length = 13)
    (hpay : payload.length = (s.holding bs).hdrPayLen.toNat)
    (htrailer : trailer.isSome = true ↔ (s.holding bs).hdrPayLen.toNat ≠ 0) :
    ((s.holding bs).hdrPayLen = 0 ∧ trailer = none) ∨
      ((s.holding bs).hdrPayLen ≠ 0 ∧ trailer = some (s.holding bs).trailerByte) := by
  cases trailer with
  | none => exact .inl ⟨BitVec.eq_of_toNat_eq (by simpa using htrailer), rfl⟩
  | some x =>
    have hlast := Mem.read_writeAll_last s.buf pre payload x
    rw [hlen, hpay, ← Option.toList_some, ← hbs] at hlast
    exact .inr ⟨(toNat_ne_zero_iff _).mp (htrailer.mp rfl), congrArg some hlast.symm⟩

/-- The record's trailer is the frame's own. -/
theorem headerRec_trailer {v : State} {trailer : Option Byte}
    (h : (v.hdrPayLen = 0 ∧ trailer = none) ∨ (v.hdrPayLen ≠ 0 ∧ trailer = some v.trailerByte)) :
    (if v.hdrPayLen.toNat > 0 then some v.trailerByte else none) = trailer := by
  rcases h with ⟨hp, rfl⟩ | ⟨hp, rfl⟩
  · exact if_neg (by rw [hp]; decide)
  · exact if_pos (Nat.pos_of_ne_zero ((toNat_ne_zero_iff _).mpr hp))

/-- The trailer check finds fault with another trailer than 0xC1 alone (40_frame_assembler.md R77). -/
theorem trailerCondition_of_trailer {v : State} {trailer : Option Byte}
    (h : (v.hdrPayLen = 0 ∧ trailer = none) ∨ (v.hdrPayLen ≠ 0 ∧ trailer = some v.trailerByte)) :
    v.trailerCondition.toList =
      if trailer = none ∨ trailer = some 0xC1#8 then [] else [.missingEndMagic (trailer.getD 0)] := by
  rcases h with ⟨hp, rfl⟩ | ⟨hp, rfl⟩
  · rw [trailerCondition_none hp]
    rfl
  · simp [trailerCondition_toList hp]

end State

namespace State

/-! ### The Base header -/

theorem base_header (s : State) (f : BaseFrame) : (s.holding f.bytes).header = f.header ++ [f.crc] :=
  holding_header _ s f.header_length

theorem base_hdrCtl (s : State) (f : BaseFrame) : (s.holding f.bytes).hdrCtl = f.ctl := by
  rw [hdrCtl, base_header]
  rfl

theorem base_hdrTs {s : State} (hv : s.cfg.variant = .base) (f : BaseFrame) : (s.holding f.bytes).hdrTs = f.ts := by
  have hvar : (s.holding f.bytes).cfg.variant = .base := hv
  simp only [hdrTs, hvar, base_header, baseTs_header]

theorem base_hdrPayLen {s : State} (hv : s.cfg.variant = .base) (f : BaseFrame) :
    (s.holding f.bytes).hdrPayLen = f.payLen := by
  have hvar : (s.holding f.bytes).cfg.variant = .base := hv
  simp only [hdrPayLen, hvar, base_header, basePayLen_header]

theorem base_trailer {s : State} {f : BaseFrame} (hv : s.cfg.variant = .base) (hwf : f.wf = true) :
    ((s.holding f.bytes).hdrPayLen = 0 ∧ f.trailer = none) ∨
      ((s.holding f.bytes).hdrPayLen ≠ 0 ∧ f.trailer = some (s.holding f.bytes).trailerByte) := by
  obtain ⟨hp, ht⟩ := f.wf_iff.mp hwf
  rw [← base_hdrPayLen hv f] at hp ht
  exact holding_trailer f.bytes_append rfl hp ht

/-- The record that a Base instance extracts is that of the frame's own fields. -/
theorem base_headerRec {s : State} {f : BaseFrame} (hv : s.cfg.variant = .base) (hwf : f.wf = true) :
    (s.holding f.bytes).headerRec = { FrameRec.blank .base with
      ctl := f.ctl, seq := f.ctl.extractLsb' 0 4, dropped := f.ctl.getLsbD 4,
      nparam := f.ctl.extractLsb' 5 3, channel := f.channel, litLen := some f.litLen, ts := f.ts,
      payLen := f.payLen, payload := f.payload, trailer := f.trailer } := by
  have hvar : (s.holding f.bytes).cfg.variant = .base := hv
  have htrailer := headerRec_trailer (base_trailer hv hwf)
  have hpayload : Mem.readBytes (s.holding f.bytes).buf headerSize f.payLen.toNat = f.payload := by
    rw [← (f.wf_iff.mp hwf).1, f.bytes_append]
    exact s.holding_payload _ rfl
  rw [base_hdrPayLen hv] at htrailer
  simp only [headerRec, hvar, base_hdrCtl, base_hdrTs hv, base_hdrPayLen hv, htrailer, hpayload, base_header]
  rfl

/-! ### The Extended header -/

theorem ext_header (s : State) (f : ExtFrame) : (s.holding f.bytes).header = f.header ++ [f.crc] :=
  holding_header _ s f.header_length

theorem ext_hdrCtl (s : State) (f : ExtFrame) : (s.holding f.bytes).hdrCtl = f.ctl := by
  rw [hdrCtl, ext_header]
  rfl

theorem ext_hdrTs {s : State} (hv : s.cfg.variant = .extended) (f : ExtFrame) :
    (s.holding f.bytes).hdrTs = f.ts := by
  have hvar : (s.holding f.bytes).cfg.variant = .extended := hv
  simp only [hdrTs, hvar, ext_header, extTs_header]

theorem ext_hdrPayLen {s : State} (hv : s.cfg.variant = .extended) (f : ExtFrame) :
    (s.holding f.bytes).hdrPayLen = f.payLen.zeroExtend 16 := by
  have hvar : (s.holding f.bytes).cfg.variant = .extended := hv
  simp only [hdrPayLen, hvar, ext_header, extPayLen_header]

theorem ext_hdrPayLen_toNat {s : State} (hv : s.cfg.variant = .extended) (f : ExtFrame) :
    (s.holding f.bytes).hdrPayLen.toNat = f.payLen.toNat := by
  rw [ext_hdrPayLen hv]
  exact BitVec.toNat_setWidth_of_le (by decide)

theorem ext_trailer {s : State} {f : ExtFrame} (hv : s.cfg.variant = .extended) (hwf : f.wf = true) :
    ((s.holding f.bytes).hdrPayLen = 0 ∧ f.trailer = none) ∨
      ((s.holding f.bytes).hdrPayLen ≠ 0 ∧ f.trailer = some (s.holding f.bytes).trailerByte) := by
  obtain ⟨hp, ht⟩ := f.wf_iff.mp hwf
  rw [← ext_hdrPayLen_toNat hv f] at hp ht
  exact holding_trailer f.bytes_append rfl hp ht

/-- The record that an Extended instance extracts is that of the frame's own fields. -/
theorem ext_headerRec {s : State} {f : ExtFrame} (hv : s.cfg.variant = .extended) (hwf : f.wf = true) :
    (s.holding f.bytes).headerRec = { FrameRec.blank .extended with
      ctl := f.ctl, seq := f.ctl.extractLsb' 0 4, dropped := f.ctl.getLsbD 4,
      nparam := f.ctl.extractLsb' 5 3, channel := f.channel, strIndex := some f.strIndex, ts := f.ts,
      payLen := f.payLen.zeroExtend 16, payload := f.payload, trailer := f.trailer } := by
  have hvar : (s.holding f.bytes).cfg.variant = .extended := hv
  have htrailer := headerRec_trailer (ext_trailer hv hwf)
  have hpayload : Mem.readBytes (s.holding f.bytes).buf headerSize f.payLen.toNat = f.payload := by
    rw [← (f.wf_iff.mp hwf).1, f.bytes_append]
    exact s.holding_payload _ rfl
  rw [← ext_hdrPayLen_toNat hv f] at hpayload
  rw [headerRec, htrailer, hpayload]
  simp only [hvar, ext_hdrCtl, ext_hdrTs hv, ext_hdrPayLen hv, ext_header, extStrIndex_header]
  rfl

/-! ### The outcome -/

/-- The conditions of a whole frame, by its control byte, its timestamp and its trailer. -/
theorem DecodesWhole.errFifo_eq {s t : State} {bs : Bytes} {ctl : Byte} {ts : Timestamp} {trailer : Option Byte}
    (h : DecodesWhole s (s.holding bs) t) (hctl : (s.holding bs).hdrCtl = ctl) (hts : (s.holding bs).hdrTs = ts)
    (htrailer : ((s.holding bs).hdrPayLen = 0 ∧ trailer = none) ∨
      ((s.holding bs).hdrPayLen ≠ 0 ∧ trailer = some (s.holding bs).trailerByte)) :
    t.errFifo = s.errFifo ++
      (if ts.toNat < s.lastTs.toNat then
        (if ctl.extractLsb' 0 4 = 0 then [] else [.missingPackets (ctl.extractLsb' 0 4) 0])
      else if s.seqValid then
        (if ctl.extractLsb' 0 4 = s.nextSeq then []
          else [.missingPackets (ctl.extractLsb' 0 4) s.nextSeq])
      else []) ++
      (if ctl.getLsbD 4 then [.senderDropped] else []) ++
      (if trailer = none ∨ trailer = some 0xC1#8 then [] else [.missingEndMagic (trailer.getD 0)]) := by
  rw [h.errFifo, gapCondition_toList, dropCondition_toList, trailerCondition_of_trailer htrailer, hctl, hts]
  rfl

end State

/-- Settles O21: the record, the conditions and the tracker are those of the state that holds the frame, and there
every field is the frame's own. -/
theorem baseFrameIsDecodedWhole : Obligations.BaseFrameIsDecodedWhole := by
  intro s f hv ha hwf hcrc
  obtain ⟨hp, ht⟩ := f.wf_iff.mp hwf
  rw [← State.base_hdrPayLen (s := s) hv f] at hp ht
  have hmagic : f.header.head? = some s.cfg.startMagic := by rw [Cfg.startMagic, hv]; rfl
  obtain ⟨t, hfeed, h⟩ := State.feedAll_wholeFrame (BaseFrame.bytes_eq hcrc) ha f.header_length hmagic hp ht
  refine ⟨t.setResult (.consumedEach (List.replicate f.bytes.length true)), (s.holding f.bytes).frameRecord,
    ?exec, h.asm, h.bufLen, rfl, h.decFifo, ?record, h.seqValid, ?nextSeq, ?lastTs, ?errFifo⟩
  case exec => rw [exec_baseFrame, State.feedAllOutcome_of_feedAll hfeed]
  case record =>
    have hvar : (s.holding f.bytes).cfg.variant = .base := hv
    rw [State.frameRecord, State.base_headerRec hv hwf, Work.decodeFrame, hvar]
    rfl
  case nextSeq => rw [State.setResult_nextSeq, h.nextSeq, State.base_hdrCtl, ctlSeq]
  case lastTs => rw [State.setResult_lastTs, h.lastTs, State.base_hdrTs hv]
  case errFifo => exact h.errFifo_eq (State.base_hdrCtl s f) (State.base_hdrTs hv f) (State.base_trailer hv hwf)

/-- Settles O22: as for a Base frame, with the fields of an Extended header. -/
theorem extFrameIsDecodedWhole : Obligations.ExtFrameIsDecodedWhole := by
  intro s f hv ha hwf hcrc
  obtain ⟨hp, ht⟩ := f.wf_iff.mp hwf
  rw [← State.ext_hdrPayLen_toNat (s := s) hv f] at hp ht
  have hmagic : f.header.head? = some s.cfg.startMagic := by rw [Cfg.startMagic, hv]; rfl
  obtain ⟨t, hfeed, h⟩ := State.feedAll_wholeFrame (ExtFrame.bytes_eq hcrc) ha f.header_length hmagic hp ht
  refine ⟨t.setResult (.consumedEach (List.replicate f.bytes.length true)), (s.holding f.bytes).frameRecord,
    ?exec, h.asm, h.bufLen, rfl, h.decFifo, ?record, h.seqValid, ?nextSeq, ?lastTs, ?errFifo⟩
  case exec => rw [exec_extFrame, State.feedAllOutcome_of_feedAll hfeed]
  case record =>
    have hvar : (s.holding f.bytes).cfg.variant = .extended := hv
    rw [State.frameRecord, State.ext_headerRec hv hwf, Work.decodeFrame, hvar]
    rfl
  case nextSeq => rw [State.setResult_nextSeq, h.nextSeq, State.ext_hdrCtl, ctlSeq]
  case lastTs => rw [State.setResult_lastTs, h.lastTs, State.ext_hdrTs hv]
  case errFifo => exact h.errFifo_eq (State.ext_hdrCtl s f) (State.ext_hdrTs hv f) (State.ext_trailer hv hwf)

end Sys2Proof.Machine
end

section
/-! PROOFS. RESET erases the past: the bytes that `BUF` holds at and above `BUF_LEN`, and the words still to come, are
never seen by an operation (10_state.md R24, 45_host_interface.md R190). -/

namespace Sys2Proof.Machine

namespace State

/-- The same instance with another buffer and another queue. -/
def withBuffer (m : Mem) (q : List IssueWord) (s : State) : State := { s with buf := m, issue := q }

/-- A buffer that reads as the instance's own below `BUF_LEN`. -/
def Agrees (m : Mem) (s : State) : Prop := ∀ a, a < s.bufLen.toNat → Mem.read m a = Mem.read s.buf a

/-! ### What the header's procedures read -/

section

variable {s : State} {m : Mem} (q : List IssueWord)

theorem readBytes_of_agrees (hm : Agrees m s) {a n : Nat} (h : a + n ≤ s.bufLen.toNat) :
    Mem.readBytes m a n = Mem.readBytes s.buf a n :=
  Mem.readBytes_congr fun i hi => hm (a + i) (by omega)

theorem header_withBuffer (hm : Agrees m s) (hl : headerSize ≤ s.bufLen.toNat) :
    (s.withBuffer m q).header = s.header :=
  readBytes_of_agrees hm (by omega)

theorem crcValid_withBuffer (hh : (s.withBuffer m q).header = s.header) :
    (s.withBuffer m q).crcValid = s.crcValid := by
  rw [crcValid, crcValid, hh]

theorem raiseIf_withBuffer (k : Option Condition) :
    (s.withBuffer m q).raiseIf k = (s.raiseIf k).withBuffer m q := by
  cases k <;> rfl

theorem trackHeader_withBuffer (hh : (s.withBuffer m q).header = s.header) :
    (s.withBuffer m q).trackHeader = s.trackHeader.withBuffer m q := by
  have hgap : (s.withBuffer m q).gapCondition = s.gapCondition := gapCondition_congr rfl hh rfl rfl rfl
  have hdrop : (s.withBuffer m q).dropCondition = s.dropCondition := dropCondition_congr hh
  have hts : (s.withBuffer m q).hdrTs = s.hdrTs := hdrTs_congr_header rfl hh
  rw [trackHeader, trackHeader, hgap, hdrop, hdrCtl_congr_header hh, hts, raiseIf_withBuffer, raiseIf_withBuffer]
  rfl

/-- A frame's record is made of its header, its payload and, if it has a payload, its trailer. -/
theorem headerRec_congr_parts {t : State} (hc : t.cfg = s.cfg) (hh : t.header = s.header)
    (hp : Mem.readBytes t.buf headerSize s.hdrPayLen.toNat = Mem.readBytes s.buf headerSize s.hdrPayLen.toNat)
    (ht : s.hdrPayLen ≠ 0 → t.trailerByte = s.trailerByte) : t.headerRec = s.headerRec := by
  have htrailer : (if s.hdrPayLen.toNat > 0 then some t.trailerByte else none) =
      (if s.hdrPayLen.toNat > 0 then some s.trailerByte else none) := by
    by_cases h0 : s.hdrPayLen = 0
    · rw [h0]; rfl
    · rw [ht h0]
  simp only [headerRec, hdrPayLen_congr_header hc hh, hdrTs_congr_header hc hh, hdrCtl_congr_header hh, hh, hc, hp,
    htrailer]

theorem completeFrame_withBuffer (hh : (s.withBuffer m q).header = s.header)
    (hp : Mem.readBytes m headerSize s.hdrPayLen.toNat = Mem.readBytes s.buf headerSize s.hdrPayLen.toNat)
    (ht : s.hdrPayLen ≠ 0 → (s.withBuffer m q).trailerByte = s.trailerByte) :
    (s.withBuffer m q).completeFrame = s.completeFrame.withBuffer m q := by
  have hlen : (s.withBuffer m q).hdrPayLen = s.hdrPayLen := hdrPayLen_congr_header rfl hh
  have hframe : (s.withBuffer m q).frameRecord = s.frameRecord := by
    have hrec : (s.withBuffer m q).headerRec = s.headerRec := headerRec_congr_parts rfl hh hp ht
    rw [frameRecord, frameRecord, hrec]
    rfl
  have hcond : (s.withBuffer m q).trailerCondition = s.trailerCondition := by
    by_cases h0 : s.hdrPayLen = 0
    · rw [trailerCondition_none h0, trailerCondition_none (hlen.trans h0)]
    · unfold trailerCondition trailerMissing
      rw [hlen, ht h0]
  rw [completeFrame, completeFrame, hcond, hframe, raiseIf_withBuffer]
  rfl

/-- The end of a header reads the header alone: a frame that it completes has no payload and no trailer. -/
theorem headerComplete_withBuffer (hh : (s.withBuffer m q).header = s.header) :
    (s.withBuffer m q).headerComplete = s.headerComplete.withBuffer m q := by
  have hlen : (s.withBuffer m q).hdrPayLen = s.hdrPayLen := hdrPayLen_congr_header rfl hh
  have hcrc := crcValid_withBuffer q hh
  cases hv : s.crcValid with
  | false =>
    rw [headerComplete_of_badCrc hv, headerComplete_of_badCrc (hcrc.trans hv)]
    rfl
  | true =>
    by_cases h0 : s.hdrPayLen = 0
    · have htracked : (s.trackHeader.withBuffer m q).header = s.trackHeader.header :=
        (trackHeader_withBuffer q hh ▸ header_congr (trackHeader_buf _)).trans
          (hh.trans (header_congr s.trackHeader_buf).symm)
      have hlen0 : s.trackHeader.hdrPayLen = 0 := s.trackHeader_hdrPayLen.trans h0
      rw [headerComplete_noPayload hv h0, headerComplete_noPayload (hcrc.trans hv) (hlen.trans h0),
        trackHeader_withBuffer q hh,
        completeFrame_withBuffer q htracked (by rw [hlen0]; rfl) (fun h => absurd hlen0 h)]
      rfl
    · rw [headerComplete_payload hv h0, headerComplete_payload (hcrc.trans hv) (hlen ▸ h0),
        trackHeader_withBuffer q hh, hlen]
      rfl

/-- A frame in progress reads no byte at or above `BUF_LEN`. -/
theorem afterByte_withBuffer (hm : Agrees m s)
    (hpay : s.asm = .pay → s.bufLen = s.expLen → s.bufLen.toNat = headerSize + s.hdrPayLen.toNat + 1) :
    (s.withBuffer m q).afterByte = s.afterByte.withBuffer m q := by
  have hsame : (s.withBuffer m q).asm = s.asm ∧ (s.withBuffer m q).bufLen = s.bufLen ∧
    (s.withBuffer m q).expLen = s.expLen := ⟨rfl, rfl, rfl⟩
  obtain ⟨hasm, hbl, hel⟩ := hsame
  cases ha : s.asm with
  | idle => simp only [afterByte, hasm, ha]
  | hdr =>
    by_cases hl : s.bufLen = 13
    · have hh := header_withBuffer q hm (by rw [hl]; decide)
      simp only [afterByte, hasm, ha, hbl, if_pos hl, headerComplete_withBuffer q hh]
    · simp only [afterByte, hasm, ha, hbl, if_neg hl]
  | pay =>
    by_cases hl : s.bufLen = s.expLen
    · have hfull := hpay ha hl
      have hh := header_withBuffer q hm (by omega)
      have hlen : (s.withBuffer m q).hdrPayLen = s.hdrPayLen := hdrPayLen_congr_header rfl hh
      have htrailer : (s.withBuffer m q).trailerByte = s.trailerByte := by
        rw [trailerByte, trailerByte, hlen]
        exact hm _ (by omega)
      have hdone := completeFrame_withBuffer q hh (readBytes_of_agrees hm (by omega)) (fun _ => htrailer)
      simp only [afterByte, hasm, ha, hbl, hel, if_pos hl, hdone]
      rfl
    · simp only [afterByte, hasm, ha, hbl, hel, if_neg hl]

end

/-! ### One fed byte -/

/-- The two buffers still agree after the same byte is written at `BUF_LEN`. -/
theorem agrees_accumulate {s : State} {m : Mem} (b : Byte) (hm : Agrees m s) (hl : s.bufLen.toNat < 65549) :
    Agrees (Mem.write m s.bufLen.toNat b) (s.accumulate b) := by
  intro a ha
  rw [accumulate_bufLen_toNat b hl] at ha
  rw [accumulate_buf, Mem.read_write, Mem.read_write]
  split
  · rfl
  · exact hm a (by omega)

theorem agrees_startFrame (b : Byte) (s : State) (m : Mem) : Agrees (Mem.write m 0 b) (s.startFrame b) := by
  intro a ha
  have h0 : a = 0 := Nat.lt_one_iff.mp ha
  rw [startFrame_buf, Mem.read_write, Mem.read_write, if_pos h0, if_pos h0]

theorem agrees_of_bufLen_zero {s : State} (m : Mem) (h : s.bufLen = 0) : Agrees m s :=
  fun a ha => absurd ha (by simp [h])

/-- What follows an accumulated byte keeps `BUF_LEN` or empties the buffer. -/
theorem agrees_afterByte {s : State} {m : Mem} (hm : Agrees m s) : Agrees m s.afterByte := by
  rcases s.afterByte_bufLen with hl | hl
  · intro a ha
    rw [hl] at ha
    rw [afterByte_buf]
    exact hm a ha
  · exact agrees_of_bufLen_zero m hl

/-- A byte fed to two instances that differ only in the bytes at and above `BUF_LEN` and in the queue: both take it,
and differ again only so. -/
theorem feedByte_withBuffer {s : State} {m : Mem} (q : List IssueWord) (b : Byte) (hpos : s.position)
    (hm : Agrees m s) : ∃ c t m', s.feedByte b = .ok (c, t) ∧ (s.withBuffer m q).feedByte b =
      .ok (c, t.withBuffer m' q) ∧ t.position ∧ Agrees m' t := by
  by_cases ha : s.asm = .idle
  · have ha' : (s.withBuffer m q).asm = .idle := ha
    by_cases hb : b = s.cfg.startMagic
    · subst hb
      exact ⟨true, _, Mem.write m 0 s.cfg.startMagic, feedByte_idle_startMagic ha, feedByte_idle_startMagic ha',
        startFrame_position _ s, agrees_startFrame _ s m⟩
    · exact ⟨false, s, m, feedByte_idle_raw ha hb, feedByte_idle_raw ha' hb, hpos, hm⟩
  · have hmax := bufLen_lt_frameMax hpos ha
    have hagree := agrees_accumulate b hm (hmax.trans_le (frameMax_le s.cfg))
    have hfull : (s.accumulate b).asm = .pay → (s.accumulate b).bufLen = (s.accumulate b).expLen →
        (s.accumulate b).bufLen.toNat = headerSize + (s.accumulate b).hdrPayLen.toNat + 1 := by
      intro hpay hl
      obtain ⟨hge, _, hexp⟩ := position_pay hpos hpay
      have hlen : (s.accumulate b).hdrPayLen = s.hdrPayLen := hdrPayLen_congr_header rfl (header_accumulate b hge)
      rw [hl, hlen]
      exact hexp
    refine ⟨true, _, _, feedByte_inFrame b ha hmax, ?_, accumulate_afterByte_position b hpos ha,
      agrees_afterByte hagree⟩
    rw [← afterByte_withBuffer q hagree hfull]
    exact feedByte_inFrame (s := s.withBuffer m q) b ha hmax

/-! ### The operation words -/

/-- An operation word returns the same on both instances, which then differ again only as before. -/
theorem exec_hostop_withBuffer {s : State} {m : Mem} (q : List IssueWord) (op : BitVec 10) (hpos : s.position)
    (hm : Agrees m s) : ∃ t m', exec (decodeHostop op) s = .next t ∧
      exec (decodeHostop op) (s.withBuffer m q) = .next (t.withBuffer m' q) ∧ t.position ∧ Agrees m' t := by
  obtain ⟨sel, x, rfl⟩ := hostop_split op
  rcases two_bits sel with rfl | rfl | rfl | rfl
  · obtain ⟨c, t, m', hs, ht, hpos', hm'⟩ := feedByte_withBuffer q x hpos hm
    rw [decodeHostop_feed, exec_feed, exec_feed, feedOutcome_of_feedByte hs, feedOutcome_of_feedByte ht]
    exact ⟨_, m', rfl, rfl, hpos', hm'⟩
  · rw [decodeHostop_takeDecoded]
    exact ⟨_, m, rfl, rfl, hpos, hm⟩
  · rw [decodeHostop_takeErrors]
    exact ⟨_, m, rfl, rfl, hpos, hm⟩
  · rw [decodeHostop_reset]
    exact ⟨_, m, rfl, rfl, position_of_idle rfl rfl, agrees_of_bufLen_zero m rfl⟩

theorem results_withBuffer (ops : List (BitVec 10)) {s : State} {m : Mem} (q : List IssueWord) (hpos : s.position)
    (hm : Agrees m s) : results ops s = results ops (s.withBuffer m q) := by
  induction ops generalizing s m with
  | nil => rfl
  | cons op ops ih =>
    obtain ⟨t, m', hs, ht, hpos', hm'⟩ := exec_hostop_withBuffer q op hpos hm
    simp only [results, hs, ht, ih hpos' hm']
    rfl

end State

/-- Settles O28: the state after RESET and the constructed instance differ only in the buffer and the queue, and the
empty `BUF_LEN` makes every two buffers agree. -/
theorem resetErasesThePast : Obligations.ResetErasesThePast := by
  intro s t x ops h
  rw [exec_reset] at h
  cases h
  exact State.results_withBuffer (m := []) ops [] (State.position_of_idle rfl rfl) (State.agrees_of_bufLen_zero [] rfl)

end Sys2Proof.Machine
end

section
/-! PROOFS. Numbers and texts: the CRC of a string and its own CRC, the digits of a number, the texts of the items and
the C meaning of a conversion (30_encoding.md R59, 43_base_render.md R140 to R150, 44_extended_extractor.md R166). -/

namespace Sys2Proof

/-! ### The CRC -/

/-- The low byte of the CRC accumulator, which no shift of the polynomial reaches. -/
def LowByteZero (acc : BitVec 16) : Prop := ∀ i, i < 8 → acc.getLsbD i = false

/-- Of the polynomial only bit 7 lies in the low byte, and the shift moves it out. -/
theorem LowByteZero.crcShift {acc : BitVec 16} (h : LowByteZero acc) : LowByteZero (crcShift acc) := by
  have hpoly : ∀ i, i < 7 → (0x8380#16).getLsbD i = false := by decide
  intro i hi
  rw [Sys2Proof.crcShift, BitVec.getLsbD_shiftLeft]
  cases i with
  | zero => simp
  | succ i =>
    split
    · simp [h i (by omega), hpoly i (by omega)]
    · simp [h i (by omega)]

theorem LowByteZero.repeat_crcShift {acc : BitVec 16} (h : LowByteZero acc) (n : Nat) :
    LowByteZero (Nat.repeat Sys2Proof.crcShift n acc) := by
  induction n with
  | zero => exact h
  | succ n ih => exact ih.crcShift

theorem LowByteZero.crcByte {acc : BitVec 16} (h : LowByteZero acc) (d : Byte) : LowByteZero (crcByte acc d) := by
  refine LowByteZero.repeat_crcShift (fun i hi => ?_) 8
  simp [h i hi, hi]

theorem lowByteZero_foldl (s : Bytes) {acc : BitVec 16} (h : LowByteZero acc) :
    LowByteZero (s.foldl Sys2Proof.crcByte acc) := by
  induction s generalizing acc with
  | nil => exact h
  | cons d s ih => exact ih (h.crcByte d)

/-- An accumulator whose low byte is 0 is cancelled by its own high byte. -/
theorem crcByte_self {acc : BitVec 16} (h : LowByteZero acc) : crcByte acc ((acc >>> 8).truncate 8) = 0#16 := by
  have hcancel : acc ^^^ (((acc >>> 8).truncate 8).zeroExtend 16 <<< 8) = 0#16 := by
    refine BitVec.eq_of_getLsbD_eq fun i hi => ?_
    by_cases h8 : i < 8
    · simp [h i h8, h8]
    · simp [h8, hi, show i - 8 < 8 by omega, show 8 + (i - 8) = i by omega]
  rw [crcByte, hcancel]
  decide

/-- Settles O20: the check value is computed; the accumulator's low byte stays 0, so its high byte cancels it. -/
theorem crcOfStringAndItsCrcIsZero : Obligations.CrcOfStringAndItsCrcIsZero := by
  refine ⟨by decide +kernel, fun s => ?_⟩
  have hlow : LowByteZero (s.foldl crcByte 0#16) := lowByteZero_foldl s fun i _ => by simp
  rw [crc8, List.foldl_append, List.foldl_cons, List.foldl_nil, crc8, crcByte_self hlow]
  rfl

/-! ### Digits -/

/-- A digit below ten is its ASCII character. -/
theorem digitByte_of_lt {upper : Bool} {d : Nat} (h : d < 10) : digitByte upper d = BitVec.ofNat 8 (48 + d) := if_pos h

theorem digitByte_hex {d : Nat} (h : d < 16) : digitByte false d = (ascii "0123456789abcdef".toList).getD d 0 := by
  have hall : ∀ d, d < 16 → digitByte false d = (ascii "0123456789abcdef".toList).getD d 0 := by decide
  exact hall d h

/-- Fuel above the value is enough, whatever it is. -/
theorem digitsAux_fuel {base : Nat} (upper : Bool) (hb : 2 ≤ base) {f g v : Nat} (hf : v < f) (hg : v < g) :
    digitsAux base upper f v = digitsAux base upper g v := by
  induction f generalizing g v with
  | zero => omega
  | succ f ih =>
    obtain ⟨g, rfl⟩ : ∃ k, g = k + 1 := ⟨g - 1, by omega⟩
    rw [digitsAux, digitsAux]
    split
    · rfl
    · have hdiv : v / base < v := Nat.div_lt_self (by omega) hb
      rw [ih (v := v / base) (g := g) (by omega) (by omega)]

theorem digits_of_lt {base : Nat} (upper : Bool) {v : Nat} (h : v < base) :
    digits base upper v = [digitByte upper v] := if_pos h

/-- The last digit of a number of two or more digits. -/
theorem digits_of_le {base : Nat} (upper : Bool) {v : Nat} (hb : 2 ≤ base) (h : base ≤ v) :
    digits base upper v = digits base upper (v / base) ++ [digitByte upper (v % base)] := by
  have hdiv : v / base < v := Nat.div_lt_self (by omega) hb
  rw [digits, digitsAux, if_neg (by omega), digits,
    digitsAux_fuel upper hb hdiv (Nat.lt_succ_self (v / base))]

theorem decNat_of_lt {n : Nat} (h : n < 10) : decNat n = [BitVec.ofNat 8 (48 + n)] := by
  rw [decNat, digits_of_lt false h, digitByte_of_lt h]

theorem decNat_of_le {n : Nat} (h : 10 ≤ n) : decNat n = decNat (n / 10) ++ [BitVec.ofNat 8 (48 + n % 10)] := by
  rw [decNat, digits_of_le false (by decide) h, digitByte_of_lt (Nat.mod_lt n (by decide)), ← decNat]

theorem dec_eq (v : Int) : dec v = (if v < 0 then ascii "-".toList else []) ++ decNat v.natAbs := by
  unfold dec
  split <;> rfl

theorem hexW_succ (w n : Nat) :
    hexW (w + 1) n = hexW w (n / 16) ++ [(ascii "0123456789abcdef".toList).getD (n % 16) 0] := by
  rw [hexW, padDigits, digitByte_hex (Nat.mod_lt n (by decide)), ← hexW]

/-- The `n` padded decimal digits, the one of weight `10 ^ k` for each `k` below `n`. -/
theorem padDigits_ten (n v : Nat) :
    padDigits 10 false n v = (List.range n).reverse.map fun k => BitVec.ofNat 8 (48 + v / 10 ^ k % 10) := by
  induction n generalizing v with
  | zero => rfl
  | succ n ih =>
    have hweight : ∀ k, v / 10 / 10 ^ k = v / 10 ^ (k + 1) := fun k => by rw [Nat.div_div_eq_div_mul, Nat.pow_succ']
    rw [padDigits, ih, digitByte_of_lt (Nat.mod_lt v (by decide)), List.range_succ_eq_map]
    simp only [List.reverse_cons, List.map_append, List.map_reverse, List.map_map, Function.comp_def, hweight]
    simp

theorem tsText_eq (v : Nat) : tsText v = decNat (v / 1000000) ++ ascii ".".toList ++
    [5, 4, 3, 2, 1, 0].map fun k => BitVec.ofNat 8 (48 + v % 1000000 / 10 ^ k % 10) := by
  rw [tsText, padDigits_ten]
  rfl

/-! ### Hex dumps -/

theorem hexPairs_eq (s : Bytes) : hexPairs s = [0x20#8].intercalate (s.map fun y => hexW 2 y.toNat) := by
  fun_induction hexPairs s with
  | case1 => rfl
  | case2 b => simp
  | case3 b bs hne ih => 
    have hmap : (bs.map fun y => hexW 2 y.toNat) ≠ [] := by simpa using hne
    rw [List.map_cons, List.intercalate_cons_of_ne_nil hmap, ih]
    rfl

theorem hexWords_eq (n : Nat) (d : Bytes) : hexWords n d = [0x20#8].intercalate
    ((List.range n).map fun j => hexW 8 (leVal ((d.drop (4 * j)).take 4))) := by
  fun_induction hexWords n d with
  | case1 d => rfl
  | case2 d => simp
  | case3 n d hne ih =>
    have hmap : ((List.range n).map fun j => hexW 8 (leVal ((d.drop (4 * (j + 1))).take 4))) ≠ [] := by
      simpa using hne
    rw [ih, List.range_succ_eq_map, List.map_cons, List.map_map]
    simp only [Function.comp_def, Nat.succ_eq_add_one]
    rw [List.intercalate_cons_of_ne_nil hmap]
    simp [Nat.mul_add, Nat.add_comm]
    rfl

/-! ### CFormat -/

/-- Padding never falls short of the width. -/
theorem le_padWidth_length (s : IntSpec) (body : Bytes) : digitsValue s.width ≤ (padWidth s body).length := by
  unfold padWidth fill
  split <;> rw [List.length_append, List.length_replicate] <;> omega

/-- Without a width nothing is padded. -/
theorem padWidth_plain (p : Option (List Digit)) (len : Len) (body : Bytes) :
    padWidth ⟨[], [], p, len⟩ body = body := by
  have hnone : fill (digitsValue [] - body.length) 0x20#8 = [] := by
    rw [show digitsValue [] = 0 from rfl, Nat.zero_sub]
    rfl
  simp [padWidth, hnone]

/-- A conversion that C defines is never shorter than its width, in each of its three forms. -/
theorem le_cformat_length {s : IntSpec} {conv : Conv} (v : Int) (h : undefinedInC s conv = false) :
    digitsValue s.width ≤ (cformat s conv v).length := by
  simp only [cformat, h, Bool.false_eq_true, if_false]
  split
  · exact le_padWidth_length ..
  · split
    · simp only [fill, List.length_append, List.length_replicate]
      omega
    · exact le_padWidth_length ..

/-- A number without flags, width and precision is its sign and its digits. -/
theorem cformat_plain (len : Len) {conv : Conv} (hc : conv ≠ .char) (v : Int) :
    cformat ⟨[], [], none, len⟩ conv v = (if conv = .dec ∧ v < 0 then ascii ['-'] else []) ++
      digits (if conv = .hexLower ∨ conv = .hexUpper then 16 else 10) (conv == .hexUpper) v.natAbs := by
  have hdef : undefinedInC ⟨[], [], none, len⟩ conv = false := by cases conv <;> rfl
  have hsign : signText ⟨[], [], none, len⟩ conv v = if conv = .dec ∧ v < 0 then ascii ['-'] else [] := by
    by_cases hd : conv = .dec <;> by_cases hv : v < 0 <;> simp [signText, hd, hv]
  have halt : altText ⟨[], [], none, len⟩ conv v = [] := by simp [altText]
  simp only [cformat, hdef, if_neg hc, hsign, halt, padWidth_plain, magnitudeText]
  simp

theorem cformat_plain_char (len : Len) (n : Nat) : cformat ⟨[], [], none, len⟩ .char n = [BitVec.ofNat 8 n] := by
  have hdef : undefinedInC ⟨[], [], none, len⟩ .char = false := rfl
  simp only [cformat, hdef, padWidth_plain]
  simp

/-- Settles O51: the plain texts are sign and digits; a width is kept by padding, with zeros or with spaces. -/
theorem plainConversionTexts : Obligations.PlainConversionTexts := by
  refine ⟨fun len v => ?dec, fun len n => ⟨?unsigned, ?hexLower, ?hexUpper, cformat_plain_char len n⟩,
    fun p conv v h => le_cformat_length v h⟩
  case dec =>
    rw [cformat_plain len (by decide), dec_eq]
    by_cases hv : v < 0 <;> simp [hv, decNat, ascii] <;> rfl
  case unsigned => rw [cformat_plain len (by decide)]; simp [decNat]; rfl
  case hexLower => rw [cformat_plain len (by decide)]; simp; rfl
  case hexUpper => rw [cformat_plain len (by decide)]; simp

end Sys2Proof

namespace Sys2Proof.Machine

theorem timeText_of_ne {v : BitVec 64} (h : v ≠ 0xFFFFFFFFFFFFFFFF#64) : timeText v = tsText v.toNat := if_neg h

theorem resolveStruct_registered {c : Cfg} {t : BitVec 16} (h : t ∈ c.registry) (d : Bytes) :
    resolveStruct c t d = Config.structHandler t d := if_pos (List.contains_iff_mem.mpr h)

theorem resolveStruct_default {c : Cfg} {t : BitVec 16} (h : t ∉ c.registry) (d : Bytes) : resolveStruct c t d =
    ascii "BadStruct#".toList ++ decNat t.toNat ++ ascii "(".toList ++ decNat d.length ++ ascii ")".toList :=
  if_neg fun hc => h (List.contains_iff_mem.mp hc)

theorem framePrefix_bracketed {c : Cfg} (h : c.prefixForm = .bracketed) (ts : Timestamp) (ch : Byte) :
    framePrefix c ts ch = ascii "[".toList ++ tsText ts.toNat ++ ascii "/".toList ++ channelTag ch ++
      ascii "]".toList := by
  rw [framePrefix, h]
  rfl

/-- The four sub-formats without a text of their own (43_base_render.md R145). -/
theorem errText_open (f l : BitVec 11) (b : Byte) (q : BitVec 12) (h : BitVec 16) (u : BitVec 2) (r : BitVec 28) :
    ∀ e ∈ [ErrCode.fileLine f l b, .fileInst f l b, .pair q h, .reserved u r], errText e = Config.errCodeText e := by
  simp only [List.forall_mem_cons]
  exact ⟨rfl, rfl, rfl, rfl, List.forall_mem_nil _⟩

/-- Settles O45: the numbers by their digits, the items by their texts. -/
theorem itemTexts : Obligations.ItemTexts := by
  refine ⟨fun n h => decNat_of_lt h, fun n h => decNat_of_le h, dec_eq, fun w n => ⟨rfl, hexW_succ w n⟩, leVal_four,
    tsText_eq, fun c ts ch h => framePrefix_bracketed h ts ch, rfl, fun c i v d b x t k s => ?_⟩
  exact ⟨rfl, rfl, rfl, rfl, rfl, rfl, hexPairs_eq s, hexWords_eq _ s, rfl, rfl, rfl, fun h => timeText_of_ne h, rfl, rfl,
    fun f l q h u r => errText_open f l b q h u r, rfl, rfl, rfl, rfl, fun h => resolveStruct_registered h s,
    fun h => resolveStruct_default h s⟩

end Sys2Proof.Machine
end

section
/-! PROOFS. The fields of the two headers and of the control byte, and the operation words (30_encoding.md R55 to
R58). -/

namespace Sys2Proof

theorem zeroExtend_byte (b : Byte) : b.zeroExtend 16 = 0#8 ++ b := by
  apply BitVec.eq_of_toNat_eq
  have hb := b.isLt
  rw [toNat_append_byte]
  simp
  omega

end Sys2Proof

namespace Sys2Proof.Machine

theorem exec_ctl (n : BitVec 3) (d : Bool) (q : BitVec 4) (s : State) :
    exec (.ctl n d q) s = s.runWork (Work.latchCtl n d q) := rfl

namespace State

/-- The CRC test of a header, byte by byte (40_frame_assembler.md R73). -/
theorem crcValid_iff {s : State} {h0 h1 h2 h3 h4 h5 h6 h7 h8 h9 h10 h11 h12 : Byte}
    (hh : s.header = [h0, h1, h2, h3, h4, h5, h6, h7, h8, h9, h10, h11, h12]) :
    s.crcValid = true ↔ h12 = crc8 [h0, h1, h2, h3, h4, h5, h6, h7, h8, h9, h10, h11] := by
  rw [crcValid, hh, beq_iff_eq]
  exact eq_comm

end State

/-- Settles O17: each field is computed from its bytes; the timestamp and the length are little-endian. -/
theorem baseHeaderFields : Obligations.BaseHeaderFields := by
  intro s h0 h1 h2 h3 h4 h5 h6 h7 h8 h9 h10 h11 h12 hv hbytes
  have hh : s.header = [h0, h1, h2, h3, h4, h5, h6, h7, h8, h9, h10, h11, h12] := hbytes
  unfold State.headerRec State.hdrCtl State.hdrTs State.hdrPayLen
  rw [hv, hh]
  exact ⟨rfl, rfl, rfl, rfl, timestamp_six h4 h5 h6 h7 h8 h9, ofNat_leVal_two h10 h11, State.crcValid_iff hh⟩

/-- Settles O18: as for a Base header, at the offsets of R58. -/
theorem extHeaderFields : Obligations.ExtHeaderFields := by
  intro s h0 h1 h2 h3 h4 h5 h6 h7 h8 h9 h10 h11 h12 hv hbytes
  have hh : s.header = [h0, h1, h2, h3, h4, h5, h6, h7, h8, h9, h10, h11, h12] := hbytes
  unfold State.headerRec State.hdrCtl State.hdrTs State.hdrPayLen
  rw [hv, hh]
  exact ⟨rfl, rfl, congrArg some (ofNat_leVal_two h3 h4), rfl, timestamp_six h5 h6 h7 h8 h9 h10, zeroExtend_byte h11,
    State.crcValid_iff hh⟩

/-- Settles O19: the three fields make the byte again, and CTL writes them into the record. -/
theorem controlByteFields : Obligations.ControlByteFields :=
  ⟨fun b => ⟨rfl, ctlByte_fields b⟩, fun s n d q => (exec_ctl n d q s).trans (s.runWork_eq _)⟩

/-- Settles O57: the two top bits are one of four, and each picks a row whose word is the operation word again. -/
theorem everyOperationWordIsLegal : Obligations.EveryOperationWordIsLegal :=
  ⟨fun c op => ⟨decode_hostop c op, encode_decodeHostop c op⟩,
    fun x _ => ⟨decodeHostop_feed x, decodeHostop_takeDecoded x, decodeHostop_takeErrors x, decodeHostop_reset x,
      rfl, rfl, rfl⟩⟩

/-- Settles O58: each word is decoded by computation, the token by the grammar's own lemma. -/
theorem writtenWordsDecode : Obligations.WrittenWordsDecode :=
  ⟨rfl, rfl, rfl, rfl, rfl, decode_row Cfg.default (s := ⟨[], [], none, .ll⟩) (conv := .dec) (rest := [0x21#8]) rfl none⟩

end Sys2Proof.Machine
end

section
/-! PROOFS. The Base extractor: the words, the counts and the pairs of its slots, and the loop over them
(42_base_extractor.md R105 to R125). -/

namespace Sys2Proof.Machine

theorem exec_fmtS32 (s : State) : exec .fmtS32 s = s.runWork Work.fmtS32 := rfl
theorem exec_fmtU32 (s : State) : exec .fmtU32 s = s.runWork Work.fmtU32 := rfl
theorem exec_fmtHex32 (s : State) : exec .fmtHex32 s = s.runWork Work.fmtHex32 := rfl
theorem exec_fmtChar (s : State) : exec .fmtChar s = s.runWork Work.fmtChar := rfl
theorem exec_fmtErrcode (s : State) : exec .fmtErrcode s = s.runWork (Work.fmtErrcode s.cfg) := rfl
theorem exec_fmtExt64 (s : State) : exec .fmtExt64 s = s.runWork (Work.fmtExt64 s.cfg) := rfl
theorem exec_fmt64S64 (s : State) : exec .fmt64S64 s = s.runWork (Work.form64 1) := rfl
theorem exec_fmt64U64 (s : State) : exec .fmt64U64 s = s.runWork (Work.form64 2) := rfl
theorem exec_fmt64Hex64 (s : State) : exec .fmt64Hex64 s = s.runWork (Work.form64 3) := rfl
theorem exec_fmt64Time (s : State) : exec .fmt64Time s = s.runWork (Work.form64 4) := rfl
theorem exec_fmt64Invalid (n : BitVec 4) (s : State) : exec (.fmt64Invalid n) s = s.runWork (Work.form64 n) := rfl
theorem exec_fmtExt64Last (s : State) : exec .fmtExt64Last s = s.runWork Work.ext64Last := rfl

/-- The row of an unpacked error code appends it (42_base_extractor.md R115). -/
theorem exec_errInstr (e : ErrCode) (s : State) : exec (errInstr e) s = s.runWork (Work.errItem e) := by
  cases e <;> rfl

namespace Work

/-! ### Words -/

theorem payByte_of_getElem? {w : Work} {off : Nat} {b : Byte} (h : w.frame.payload[off]? = some b) :
    w.payByte off = b := by
  rw [payByte, h]
  rfl

/-- The parameter word of a slot is the little-endian value of its four bytes (30_encoding.md R61). -/
theorem word_of_holdsWord {w : Work} {i : Nat} {b0 b1 b2 b3 : Byte} (h : w.holdsWord i b0 b1 b2 b3) :
    w.word i = b3 ++ b2 ++ b1 ++ b0 := by
  obtain ⟨h0, h1, h2, h3⟩ := h
  have hread : w.payRead (w.litSize + w.nibbleBytes + 4 * i) 4 = leVal [b0, b1, b2, b3] := by
    rw [← payByte_of_getElem? h0, ← payByte_of_getElem? h1, ← payByte_of_getElem? h2, ← payByte_of_getElem? h3]
    rfl
  rw [word, hread, ofNat_leVal_four]

/-- The two words of a 64-bit form, low word first (42_base_extractor.md R119). -/
theorem pairValue_of_holdsWord {w : Work} {b0 b1 b2 b3 b4 b5 b6 b7 : Byte}
    (h : w.holdsWord w.slot b0 b1 b2 b3) (h' : w.holdsWord (w.slot + 1) b4 b5 b6 b7) :
    w.pairValue = b7 ++ b6 ++ b5 ++ b4 ++ b3 ++ b2 ++ b1 ++ b0 := by
  rw [pairValue, word_of_holdsWord h, word_of_holdsWord h']
  exact append_four b4 b3 b2 b1 b0 (b7 ++ b6 ++ b5)

/-! ### The 64-bit forms -/

/-- The combined code of a form is 101 to 104, or invalid (30_encoding.md R64). -/
theorem form64_invalid {n : BitVec 4} (h1 : n ≠ 1) (h2 : n ≠ 2) (h3 : n ≠ 3) (h4 : n ≠ 4) (w : Work) :
    w.form64 n = w.pushItem (.badFormatL n) 2 := by
  unfold form64
  split
  · exact absurd (BitVec.eq_of_toNat_eq ‹_›) h1
  · exact absurd (BitVec.eq_of_toNat_eq ‹_›) h2
  · exact absurd (BitVec.eq_of_toNat_eq ‹_›) h3
  · exact absurd (BitVec.eq_of_toNat_eq ‹_›) h4
  · rfl

/-! ### Counts -/

/-- Bytes that lie at the trailing cursor are what a read of their length gives (42_base_extractor.md R107). -/
theorem trailRead_eq {w : Work} {pre d post : Bytes} (hp : w.frame.payload = pre ++ d ++ post)
    (hl : pre.length = w.cur) : w.trailRead d.length = some (d, { w with cur := w.cur + d.length }) := by
  have hfits : ¬ w.cur + d.length > w.paySize := by
    rw [paySize, hp, List.length_append, List.length_append]
    omega
  rw [trailRead, if_neg hfits, hp, ← hl, List.append_assoc, List.drop_left, List.take_left]

theorem countedItem_data {w : Work} {pre d post : Bytes} (bad : BaseItem) (mk : Bytes → BaseItem)
    (hcount : w.count ≠ 0xFFFF#16) (hp : w.frame.payload = pre ++ d ++ post) (hl : pre.length = w.cur)
    (hd : d.length = w.count.toNat) :
    w.countedItem bad mk = { w with cur := w.cur + d.length }.pushItem (mk d) 1 := by
  rw [countedItem, if_neg hcount, ← hd, trailRead_eq hp hl]

theorem countedItem_past {w : Work} (bad : BaseItem) (mk : Bytes → BaseItem) (hcount : w.count ≠ 0xFFFF#16)
    (hp : w.frame.payload.length < w.cur + w.count.toNat) : w.countedItem bad mk = w.endBadLen := by
  have hnone : w.trailRead w.count.toNat = none := if_pos hp
  rw [countedItem, if_neg hcount, hnone]

end Work

/-- Settles O29: the word of the slot, and for code 4 its low byte. -/
theorem integerCodesReadTheirWord : Obligations.IntegerCodesReadTheirWord := by
  refine ⟨fun s b0 b1 b2 b3 h => ?_, fun _ _ _ => rfl⟩
  have hword : s.work.curWord = b3 ++ b2 ++ b1 ++ b0 := Work.word_of_holdsWord h
  have hlow : (b3 ++ b2 ++ b1 ++ b0).extractLsb' 0 8 = b0 := BitVec.extractLsb'_append_eq_right
  refine ⟨?s32, ?u32, ?hex32, ?char⟩
  case s32 => rw [exec_fmtS32, State.runWork_eq, Work.fmtS32, hword]
  case u32 => rw [exec_fmtU32, State.runWork_eq, Work.fmtU32, hword]
  case hex32 => rw [exec_fmtHex32, State.runWork_eq, Work.fmtHex32, hword]
  case char => rw [exec_fmtChar, State.runWork_eq, Work.fmtChar, hword, hlow]

/-- Settles O30: the sub-formats as a chain of tests (`unpackErrCode_eq`), at the decided positions. -/
theorem errorCodeIsUnpacked : Obligations.ErrorCodeIsUnpacked := by
  intro s hl
  rw [exec_fmtErrcode, State.runWork_eq, Work.fmtErrcode, Work.errItem, unpackErrCode_eq, hl]
  rfl

/-- Settles O31: a row appends its code, and code 5 appends what its word unpacks to. -/
theorem errorRowsAppendTheirCode : Obligations.ErrorRowsAppendTheirCode := by
  intro s f l e k c t r v
  have hrow (x : ErrCode) : exec (errInstr x) s = .next { s with work := s.work.pushItem (.err x) 1, result := .none } :=
    exec_errInstr x s
  exact ⟨hrow .none, hrow (.fileLine f l e), hrow (.fileInst f l e), hrow (.pair k c), hrow (.reserved t r),
    hrow (.legacy v), (hrow _).symm ▸ rfl⟩

/-- Settles O35: the five codes are one counted item, whose count is the length of the bytes at the cursor. -/
theorem countedCodesTakeTrailingData : Obligations.CountedCodesTakeTrailingData := by
  intro s pre d post hcount hp hl hd
  have hitem (bad : BaseItem) (mk : Bytes → BaseItem) := Work.countedItem_data bad mk hcount hp hl hd
  refine ⟨?string, ?struct, ?strbuf, ?bytes, ?words⟩
  case string => rw [exec_fmtString, State.runWork_eq, Work.fmtString, hitem]
  case struct => rw [exec_fmtStruct, State.runWork_eq, Work.fmtStruct, hitem]; rfl
  case strbuf => rw [exec_fmtStrbuf, State.runWork_eq, Work.fmtStrbuf, hitem]
  case bytes => rw [exec_fmtBytes, State.runWork_eq, Work.fmtBytes, hitem]
  case words => rw [exec_fmtWords, State.runWork_eq, Work.fmtWords, hitem]

/-- Settles O36: the five codes are one counted item, whose bytes are not all there. -/
theorem countPastThePayloadIsBadLen : Obligations.CountPastThePayloadIsBadLen := by
  intro s hcount hp
  have hitem (bad : BaseItem) (mk : Bytes → BaseItem) := Work.countedItem_past bad mk hcount hp
  simp only [List.forall_mem_cons]
  refine ⟨?string, ?struct, ?strbuf, ?bytes, ?words, List.forall_mem_nil _⟩
  case string => rw [exec_fmtString, State.runWork_eq, Work.fmtString, hitem, Work.endBadLen]
  case struct => rw [exec_fmtStruct, State.runWork_eq, Work.fmtStruct, hitem, Work.endBadLen]
  case strbuf => rw [exec_fmtStrbuf, State.runWork_eq, Work.fmtStrbuf, hitem, Work.endBadLen]
  case bytes => rw [exec_fmtBytes, State.runWork_eq, Work.fmtBytes, hitem, Work.endBadLen]
  case words => rw [exec_fmtWords, State.runWork_eq, Work.fmtWords, hitem, Work.endBadLen]

/-- Settles O37: the pair is one 64-bit number, and each form one item of it. -/
theorem pairFormsReadTwoWords : Obligations.PairFormsReadTwoWords := by
  intro s b0 b1 b2 b3 b4 b5 b6 b7 h h'
  have hpair := Work.pairValue_of_holdsWord h h'
  rw [← hpair]
  exact ⟨(exec_fmt64S64 s).trans (s.runWork_eq _), (exec_fmt64U64 s).trans (s.runWork_eq _),
    (exec_fmt64Hex64 s).trans (s.runWork_eq _), (exec_fmt64Time s).trans (s.runWork_eq _), fun n h1 h2 h3 h4 => by
      rw [exec_fmt64Invalid, State.runWork_eq, Work.form64_invalid h1 h2 h3 h4]⟩

/-- The 64-bit row that a code pair decodes to runs the form of its second code (42_base_extractor.md R118). -/
theorem exec_of_decodeFmt64 {n : BitVec 4} {i : Instr} (h : decodeFmt64 7 (some n) = .ok i) (s : State) :
    exec i s = s.runWork (Work.form64 n) := by
  by_cases h1 : n = 1
  · subst h1; cases h; rfl
  by_cases h2 : n = 2
  · subst h2; cases h; rfl
  by_cases h3 : n = 3
  · subst h3; cases h; rfl
  by_cases h4 : n = 4
  · subst h4; cases h; rfl
  cases (decodeFmt64_invalid h1 h2 h3 h4).symm.trans h
  exact exec_fmt64Invalid n s

/-- Settles O38: code 7 asks whether a next slot is there, and then for its code. -/
theorem code7IsAPrefix : Obligations.Code7IsAPrefix := by
  refine ⟨fun s => (exec_fmtExt64Last s).trans (s.runWork_eq _), fun s hlast => ?last, fun s i hnext hi => ?next⟩
  case last =>
    have hop : s.work.fmtExt64 s.cfg = s.work.ext64Last := if_pos hlast
    rw [exec_fmtExt64, exec_fmtExt64Last, State.runWork_eq, State.runWork_eq, hop]
  case next =>
    have hop : s.work.fmtExt64 s.cfg = s.work.form64 (s.work.code s.cfg (s.work.slot + 1)) := if_neg hnext
    rw [exec_fmtExt64, exec_of_decodeFmt64 hi, State.runWork_eq, State.runWork_eq, hop]

/-- Settles O39: the four cases of order and parity. -/
theorem nibbleOfASlot : Obligations.NibbleOfASlot := by
  intro c w i nb h
  have hmod := Nat.mod_two_eq_zero_or_one i
  unfold Work.code
  rw [Work.payByte_of_getElem? h]
  cases hc : c.nibbleOrder <;> rcases hmod with hi | hi <;> simp [hi]

/-! ### The loop and the scans run the rows they decode -/

/-- A format code's row is the operation that the slot loop picks for it (42_base_extractor.md R109). -/
theorem exec_decodeFmt4 (s : State) : exec (decodeFmt4 (s.work.code s.cfg s.work.slot)) s =
    .next { s with work := s.work.extractSlot s.cfg, result := .none } := by
  unfold decodeFmt4 Work.extractSlot
  match (s.work.code s.cfg s.work.slot).toNat with
  | 0 => rfl
  | 1 => rfl
  | 2 => rfl
  | 3 => rfl
  | 4 => rfl
  | 5 => rfl
  | 6 => rfl
  | 7 => rfl
  | 8 => rfl
  | 9 => rfl
  | 10 => rfl
  | 11 => rfl
  | 12 => rfl
  | 13 => rfl
  | 14 => rfl
  | _ + 15 => rfl

/-- A byte of its own class is neither a `$` nor a `%` (30_encoding.md R67). -/
theorem byte_mem_litOps {lit : Bytes} {b : Byte} (h : LitOp.byte b ∈ litOps lit) : b ≠ dollar ∧ b ≠ percent := by
  fun_induction litOps lit with
  | case1 => cases h
  | case2 => simp at h
  | case3 => simp at h
  | case4 x hd hp =>
    obtain rfl : b = x := by simpa using h
    exact ⟨hd, hp⟩
  | case5 c bs ih => exact ih (by simpa using h)
  | case6 c bs hd ih => exact ih (by simpa using h)
  | case7 x c bs hd hp ih =>
    rcases List.mem_cons.mp h with h | h
    · obtain rfl : b = x := by simpa using h
      exact ⟨hd, hp⟩
    · exact ih h

/-- The row of a byte class is one step of the literal's scan (43_base_render.md R146). -/
theorem exec_blit {s : State} {lit : Bytes} {op : LitOp} (h : op ∈ litOps lit) :
    ∃ i, decode s.cfg (.blit op.bytes) = .ok i ∧
      exec i s = .next { s with work := s.work.litStep s.cfg op, result := .none } := by
  cases op with
  | subst => exact ⟨.litSubst, rfl, rfl⟩
  | escape x => exact ⟨.litEscape x, decodeBlit_escape x, rfl⟩
  | byte b =>
    obtain ⟨hd, hp⟩ := byte_mem_litOps h
    exact ⟨.litByte b, decodeBlit_byte hd hp, rfl⟩

/-- The row of an integer conversion's letter (44_extended_extractor.md R168 to R172). -/
theorem exec_row (p : IntSpec) (conv : Conv) (rest : Bytes) (s : State) :
    exec (conv.row p rest) s = s.runWork (Work.xInt p conv rest) := by
  cases conv <;> rfl

theorem Work.convert_int (c : Cfg) (w : Work) (p : IntSpec) (conv : Conv) (rest : Bytes) :
    w.convert c (.int p conv rest) =
      if (fixedDigits p conv rest).isSome then w.xIntFixed p conv rest else w.xInt p conv rest := rfl

theorem Work.convert_str (c : Cfg) (w : Work) (p : StrSpec) (rest : Bytes) :
    w.convert c (.str p rest) = if w.peek = some 0xFF#8 then w.xStrFn c rest else w.xStr rest := rfl

theorem tokenInstr_str (p : StrSpec) (rest : Bytes) (peek : Option Byte) :
    tokenInstr (.str p rest) peek = if peek = some 0xFF#8 then .xStrFn p rest else .xStr p rest := rfl

/-- The row of an integer token is its conversion: `z` reads four bytes either way (44_extended_extractor.md
R173). -/
theorem exec_intInstr (p : IntSpec) (conv : Conv) (rest : Bytes) (s : State) :
    exec (intInstr p conv rest) s =
      .next { s with work := s.work.convert s.cfg (.int p conv rest), result := .none } := by
  by_cases hf : (fixedDigits p conv rest).isSome = true
  · rw [intInstr_fixed hf, exec_xIntFixed, State.runWork_eq, Work.convert_int, if_pos hf]
  · have hnone : (fixedDigits p conv rest).isNone = true := by simpa using hf
    rw [Work.convert_int, if_neg hf]
    by_cases hz : p.len = .z
    · have hp : { p with len := .z } = p := by rw [← hz]
      rw [intInstr_z hnone hz, exec_xLenZ, State.runWork_eq, hp]
    · rw [intInstr_row hnone hz, exec_row, State.runWork_eq]

/-- The row of a token, with the parameter byte at `pc`, is its conversion (44_extended_extractor.md R161). -/
theorem exec_tokenInstr (t : Token) (s : State) : exec (tokenInstr t s.work.peek) s =
    .next { s with work := s.work.convert s.cfg t, result := .none } := by
  cases t with
  | escape rest => rfl
  | int p conv rest => exact exec_intInstr p conv rest s
  | str p rest =>
    rw [tokenInstr_str, Work.convert_str]
    by_cases hfn : s.work.peek = some 0xFF#8
    · rw [if_pos hfn, if_pos hfn, exec_xStrFn, State.runWork_eq]
    · rw [if_neg hfn, if_neg hfn, exec_xStr, State.runWork_eq]
  | ptr k rest => cases k <;> rfl
  | unprocessed t => rfl

namespace Work

theorem baseItems_of_fits {w : Work} (h : w.fixedSize ≤ w.paySize) (c : Cfg) :
    w.baseItems c = slotLoop c w.slots { w with cur := w.fixedSize } := if_neg (by omega)

theorem slotLoop_turn {w : Work} (hstop : w.stop = false) (hslot : w.slot < w.slots) (c : Cfg) (n : Nat) :
    slotLoop c (n + 1) w = slotLoop c n (w.extractSlot c) :=
  if_neg (by simp [hstop, hslot])

theorem slotLoop_end {w : Work} (h : w.stop = true ∨ w.slots ≤ w.slot) (c : Cfg) (n : Nat) : slotLoop c n w = w := by
  cases n with
  | zero => rfl
  | succ n => exact if_pos h

/-- One turn of the slot loop adds at most one item. -/
theorem extractSlot_items_length (c : Cfg) (w : Work) :
    (w.extractSlot c).frame.items.length ≤ w.frame.items.length + 1 := by
  rcases slotEffect_extractSlot c w with ⟨h, _⟩ | h | ⟨it, k, cur, _, h⟩ <;> rw [h]
  · omega
  · exact Nat.le_succ _
  · rw [pushItem_items, List.length_append, List.length_singleton]

theorem slotLoop_items_length (c : Cfg) (n : Nat) (w : Work) :
    (slotLoop c n w).frame.items.length ≤ w.frame.items.length + n := by
  induction n generalizing w with
  | zero => exact Nat.le_refl _
  | succ n ih =>
    unfold slotLoop
    split
    · omega
    · have hturn := extractSlot_items_length c w
      have hrest := ih (w.extractSlot c)
      omega

theorem baseItems_items_length (c : Cfg) (w : Work) :
    (w.baseItems c).frame.items.length ≤ w.frame.items.length + w.slots := by
  unfold baseItems
  split
  · exact Nat.le_add_right _ _
  · exact slotLoop_items_length c w.slots _

/-- The text of a frame leaves its items alone. -/
theorem baseDecode_items (c : Cfg) (w : Work) : (w.baseDecode c).frame.items = (w.baseItems c).frame.items := by
  rw [baseDecode, baseText_frame_eq]

end Work

/-- Settles O40: the loop's equations, and each row as one turn. -/
theorem extractionRunsTheDecodedRows : Obligations.ExtractionRunsTheDecodedRows :=
  ⟨fun c _ => ⟨rfl, fun h => Work.baseItems_of_fits h c⟩,
    fun c n _ => ⟨rfl, fun hstop hslot => Work.slotLoop_turn hstop hslot c n, fun h => Work.slotLoop_end h c n⟩,
    fun _ _ => ⟨rfl, rfl, rfl, rfl, rfl⟩, exec_decodeFmt4, fun _ _ _ h => exec_blit h,
    fun s t => exec_tokenInstr (parseToken t) s⟩

/-- Settles O42: at most `N` turns, each of which adds at most one item to the record. -/
theorem baseDecodeYieldsAtMostNItems : Obligations.BaseDecodeYieldsAtMostNItems := by
  intro c r hitems
  refine ⟨?_, Work.baseKeeps_baseDecode c (Work.start r)⟩
  have hle := Work.baseItems_items_length c (Work.start r)
  have h0 : (Work.start r).frame.items = [] := hitems
  rw [h0, List.length_nil, Nat.zero_add] at hle
  rw [Work.baseDecode_items]
  exact hle

end Sys2Proof.Machine
end

section
/-! PROOFS. The literal's byte classes and the template's conversions: what each appends, and that every extraction row
completes (43_base_render.md R146, 44_extended_extractor.md R160 to R181). -/

namespace Sys2Proof

theorem ofNat_leVal_eight (b0 b1 b2 b3 b4 b5 b6 b7 : Byte) :
    BitVec.ofNat 64 (leVal [b0, b1, b2, b3, b4, b5, b6, b7]) = b7 ++ b6 ++ b5 ++ b4 ++ b3 ++ b2 ++ b1 ++ b0 := by
  rw [leVal_eight]
  exact BitVec.eq_of_toNat_eq (Nat.mod_eq_of_lt (b7 ++ b6 ++ b5 ++ b4 ++ b3 ++ b2 ++ b1 ++ b0).isLt)

theorem IntSpec.size_of_ll {p : IntSpec} (h : p.len = .ll) : p.size = 8 := if_pos h

theorem IntSpec.size_of_ne_ll {p : IntSpec} (h : p.len ≠ .ll) : p.size = 4 := if_neg h

/-- Only `d` extends the sign (44_extended_extractor.md R166). -/
theorem intValue_eq (size : Nat) (conv : Conv) (raw : Nat) : intValue size conv.signed raw =
    if conv = .dec then (BitVec.ofNat (8 * size) raw).toInt else (raw : Int) := by
  cases conv <;> rfl

theorem intValue_four (conv : Conv) (b0 b1 b2 b3 : Byte) : intValue 4 conv.signed (leVal [b0, b1, b2, b3]) =
    if conv = Conv.dec then (b3 ++ b2 ++ b1 ++ b0).toInt else ((b3 ++ b2 ++ b1 ++ b0).toNat : Int) := by
  have hsigned : BitVec.ofNat (8 * 4) (leVal [b0, b1, b2, b3]) = b3 ++ b2 ++ b1 ++ b0 := ofNat_leVal_four b0 b1 b2 b3
  rw [intValue_eq, hsigned, leVal_four]

theorem intValue_eight (conv : Conv) (b0 b1 b2 b3 b4 b5 b6 b7 : Byte) :
    intValue 8 conv.signed (leVal [b0, b1, b2, b3, b4, b5, b6, b7]) =
      if conv = Conv.dec then (b7 ++ b6 ++ b5 ++ b4 ++ b3 ++ b2 ++ b1 ++ b0).toInt
      else ((b7 ++ b6 ++ b5 ++ b4 ++ b3 ++ b2 ++ b1 ++ b0).toNat : Int) := by
  have hsigned : BitVec.ofNat (8 * 8) (leVal [b0, b1, b2, b3, b4, b5, b6, b7]) =
      b7 ++ b6 ++ b5 ++ b4 ++ b3 ++ b2 ++ b1 ++ b0 := ofNat_leVal_eight b0 b1 b2 b3 b4 b5 b6 b7
  rw [intValue_eq, hsigned, leVal_eight]

theorem fixedText_eq (n : Nat) (v : Int) : fixedText n v =
    (if v < 0 then ascii "-".toList else []) ++ decNat (v.natAbs / 10 ^ n) ++
      (if 0 < n then ascii ".".toList ++ padDigits 10 false n (v.natAbs % 10 ^ n) else []) := rfl

end Sys2Proof

namespace Sys2Proof.Machine

theorem exec_litByte (b : Byte) (s : State) : exec (.litByte b) s = s.runWork (Work.litByte b) := rfl
theorem exec_litEscape (x : Option Byte) (s : State) : exec (.litEscape x) s = s.runWork (Work.litEscape x) := rfl
theorem exec_litSubst (s : State) : exec .litSubst s = s.runWork (Work.litSubst s.cfg) := rfl
theorem exec_xEscape (rest : Bytes) (s : State) : exec (.xEscape rest) s = s.runWork (Work.xEscape rest) := rfl
theorem exec_xUnprocessed (t : Bytes) (s : State) :
    exec (.xUnprocessed t) s = s.runWork (Work.xUnprocessed t) := rfl
theorem exec_xTsMarker (s : State) : exec .xTsMarker s = s.runWork Work.xTsMarker := rfl

namespace Work

/-! ### The literal -/

theorem litSubst_some {c : Cfg} {w : Work} {it : BaseItem} (h : w.frame.items[w.nextItem]? = some it) :
    w.litSubst c = { w with
      frame := { w.frame with text := w.frame.text ++ itemText c it },
      nextItem := w.nextItem + 1, litPos := w.litPos + 1 } := by
  simp only [litSubst, h]
  rfl

theorem litSubst_none {c : Cfg} {w : Work} (h : w.frame.items.length ≤ w.nextItem) :
    w.litSubst c = { w with litPos := w.litPos + 1 } := by
  simp only [litSubst, List.getElem?_eq_none h]
  rfl

/-- A final `%` escapes nothing. -/
theorem litEscape_none (w : Work) : w.litEscape none = { w with litPos := w.litPos + 2 } := by
  simp [litEscape, appendText, advanceLit]

/-! ### Reads at `pc` -/

theorem readBytes_of_holdsParams {w : Work} {d : Bytes} (h : w.holdsParams d) :
    w.readBytes d.length = some (d, { w with pc := w.pc + d.length }) := by
  obtain ⟨pre, post, hp, hl⟩ := h
  exact readBytes_eq hp hl

/-- What lies at `pc` holds its own beginning. -/
theorem holdsParams_left {w : Work} {d e : Bytes} (h : w.holdsParams (d ++ e)) : w.holdsParams d := by
  obtain ⟨pre, post, hp, hl⟩ := h
  exact ⟨pre, e ++ post, by simp [hp], hl⟩

/-- And past its beginning the rest. -/
theorem holdsParams_right {w : Work} {d e : Bytes} (h : w.holdsParams (d ++ e)) :
    { w with pc := w.pc + d.length }.holdsParams e := by
  obtain ⟨pre, post, hp, hl⟩ := h
  exact ⟨pre ++ d, post, by simp [hp], by simp [hl]⟩

/-- An integer conversion whose bytes are there. -/
theorem xIntWith_read {w : Work} {p : IntSpec} {d : Bytes} (h : w.holdsParams d) (hd : d.length = p.size)
    (conv : Conv) (render : Int → Bytes) (item : Int → ExtItem) (rest : Bytes) :
    w.xIntWith p conv render item rest = { w with pc := w.pc + d.length }.put
      (render (intValue p.size conv.signed (leVal d))) rest (item (intValue p.size conv.signed (leVal d))) := by
  rw [xIntWith, ← hd, readBytes_of_holdsParams h]

theorem xInt_read {w : Work} {p : IntSpec} {d : Bytes} (h : w.holdsParams d) (hd : d.length = p.size) (conv : Conv)
    (rest : Bytes) : w.xInt p conv rest = { w with pc := w.pc + d.length }.put
      (cformat p conv (intValue p.size conv.signed (leVal d))) rest
      (.int p.size conv.signed (intValue p.size conv.signed (leVal d))) :=
  xIntWith_read h hd conv _ _ rest

theorem xInt_four {w : Work} {p : IntSpec} {b0 b1 b2 b3 : Byte} (h : w.holdsParams [b0, b1, b2, b3])
    (hlen : p.len ≠ .ll) (conv : Conv) (rest : Bytes) : w.xInt p conv rest = { w with pc := w.pc + 4 }.put
      (cformat p conv (if conv = Conv.dec then (b3 ++ b2 ++ b1 ++ b0).toInt else ((b3 ++ b2 ++ b1 ++ b0).toNat : Int)))
      rest (.int 4 conv.signed
        (if conv = Conv.dec then (b3 ++ b2 ++ b1 ++ b0).toInt else ((b3 ++ b2 ++ b1 ++ b0).toNat : Int))) := by
  have hsize := IntSpec.size_of_ne_ll hlen
  rw [xInt_read h hsize.symm, hsize, intValue_four]
  rfl

theorem xInt_eight {w : Work} {p : IntSpec} {b0 b1 b2 b3 b4 b5 b6 b7 : Byte}
    (h : w.holdsParams [b0, b1, b2, b3, b4, b5, b6, b7]) (hlen : p.len = .ll) (conv : Conv) (rest : Bytes) :
    w.xInt p conv rest = { w with pc := w.pc + 8 }.put
      (cformat p conv (if conv = Conv.dec then (b7 ++ b6 ++ b5 ++ b4 ++ b3 ++ b2 ++ b1 ++ b0).toInt
        else ((b7 ++ b6 ++ b5 ++ b4 ++ b3 ++ b2 ++ b1 ++ b0).toNat : Int)))
      rest (.int 8 conv.signed (if conv = Conv.dec then (b7 ++ b6 ++ b5 ++ b4 ++ b3 ++ b2 ++ b1 ++ b0).toInt
        else ((b7 ++ b6 ++ b5 ++ b4 ++ b3 ++ b2 ++ b1 ++ b0).toNat : Int))) := by
  have hsize := IntSpec.size_of_ll hlen
  rw [xInt_read h hsize.symm, hsize, intValue_eight]
  rfl

theorem xIntFixed_read {w : Work} {p : IntSpec} {conv : Conv} {rest d : Bytes} {n : Nat}
    (hn : fixedDigits p conv rest = some n) (h : w.holdsParams d) (hd : d.length = p.size) :
    w.xIntFixed p conv rest = { w with pc := w.pc + d.length }.put
      (fixedText n (intValue p.size conv.signed (leVal d))) rest
      (.fixed (intValue p.size conv.signed (leVal d)) n) := by
  rw [xIntFixed, hn]
  exact xIntWith_read h hd conv _ _ rest

/-- An inline string ends at its first 0x00 (44_extended_extractor.md R174). -/
theorem xStr_read {w : Work} {str : Bytes} (h0 : 0#8 ∉ str) (h : w.holdsParams (str ++ [0#8])) (rest : Bytes) :
    w.xStr rest = { w with pc := w.pc + str.length + 1 }.put str rest (.str str) := by
  obtain ⟨pre, post, hp, hl⟩ := h
  have hdrop : w.frame.payload.drop w.pc = str ++ 0#8 :: post := by
    rw [hp, ← hl, List.append_assoc, List.drop_left, List.append_assoc]
    rfl
  have htake : (str ++ 0#8 :: post).takeWhile (· ≠ 0#8) = str := by
    rw [List.takeWhile_append_of_pos fun b hb => decide_eq_true (ne_of_mem_of_not_mem hb h0)]
    simp
  have hlt : str.length ≠ (str ++ 0#8 :: post).length := by simp
  simp only [xStr, hdrop, htake, if_neg hlt]

theorem xStrFn_read {w : Work} {b0 b1 b2 b3 : Byte} (h : w.holdsParams [0xFF#8, b0, b1, b2, b3]) (c : Cfg)
    (rest : Bytes) : w.xStrFn c rest = { w with pc := w.pc + 5 }.put
      ((c.fnTable[(b3 ++ b2 ++ b1 ++ b0).toNat]?).getD Config.txtBadFn) rest (.fn (b3 ++ b2 ++ b1 ++ b0)) := by
  have hread : w.readBytes 5 = some ([0xFF#8, b0, b1, b2, b3], { w with pc := w.pc + 5 }) :=
    readBytes_of_holdsParams h
  simp only [xStrFn, hread, List.drop_succ_cons, List.drop_zero, ofNat_leVal_four]

theorem xPtrP_read {w : Work} {b0 b1 b2 b3 : Byte} (h : w.holdsParams [b0, b1, b2, b3]) (rest : Bytes) :
    w.xPtrP rest = { w with pc := w.pc + 4 }.put (hexW 8 (b3 ++ b2 ++ b1 ++ b0).toNat) rest
      (.ptrP (b3 ++ b2 ++ b1 ++ b0)) := by
  have hread : w.readBytes 4 = some ([b0, b1, b2, b3], { w with pc := w.pc + 4 }) := readBytes_of_holdsParams h
  simp only [xPtrP, hread]
  rw [ofNat_leVal_four, leVal_four]

theorem xPtrT_read {w : Work} {d : Bytes} (hd : d.length = 8) (h : w.holdsParams d) (rest : Bytes) :
    w.xPtrT rest = { w with pc := w.pc + 8 }.put
      (decNat (if leVal d = 0 then w.frame.ts.toNat else leVal d)) rest
      (.ptrT (BitVec.ofNat 64 (if leVal d = 0 then w.frame.ts.toNat else leVal d))) := by
  have hread := readBytes_of_holdsParams h
  rw [hd] at hread
  simp only [xPtrT, hread]

/-- The dump's length, then its data (44_extended_extractor.md R178). -/
theorem xPtrH_read {w : Work} {n0 n1 : Byte} {d : Bytes} (hd : d.length = (n1 ++ n0).toNat)
    (h : w.holdsParams ([n0, n1] ++ d)) (rest : Bytes) :
    w.xPtrH rest = { w with pc := w.pc + 2 + d.length }.put (hexPairs d) rest (.ptrH d) := by
  have hlen : w.readBytes 2 = some ([n0, n1], { w with pc := w.pc + 2 }) :=
    readBytes_of_holdsParams (holdsParams_left h)
  have hdata := readBytes_of_holdsParams (holdsParams_right h)
  have hcount : leVal [n0, n1] = d.length := (leVal_two n0 n1).trans hd.symm
  simp only [xPtrH, hlen, hcount]
  rw [show ({ w with pc := w.pc + 2 } : Work).readBytes d.length = _ from hdata]
  rfl

/-! ### One row adds to the record -/

theorem adds_litSubst (c : Cfg) (w : Work) : Adds w (w.litSubst c) := by
  obtain ⟨txt, h⟩ : ∃ txt, (w.litSubst c).frame = { w.frame with text := w.frame.text ++ txt } :=
    litStep_frame c w .subst
  exact ⟨[], [], txt, false, by simp, by simp [h]⟩

end Work

/-- Settles O43: each class is one operation on the text and the position. -/
theorem literalClassesAppend : Obligations.LiteralClassesAppend := by
  intro s b
  refine ⟨?byte, ?escape, ?final, fun it h => ?subst, fun h => ?none⟩
  case byte => exact (exec_litByte b s).trans (s.runWork_eq _)
  case escape => exact (exec_litEscape (some b) s).trans (s.runWork_eq _)
  case final => rw [exec_litEscape, State.runWork_eq, Work.litEscape_none]
  case subst => rw [exec_litSubst, State.runWork_eq, Work.litSubst_some h]
  case none => rw [exec_litSubst, State.runWork_eq, Work.litSubst_none h]

/-- Settles O48: the three rows are one `appendText` each. -/
theorem conversionsThatReadNothing : Obligations.ConversionsThatReadNothing := by
  refine ⟨fun s t => ⟨?escape, ?unprocessed, ?marker⟩, fun _ _ => rfl, fun w t rest it => ?put⟩
  case escape => exact (exec_xEscape t s).trans (s.runWork_eq _)
  case unprocessed => exact (exec_xUnprocessed t s).trans (s.runWork_eq _)
  case marker => exact (exec_xTsMarker s).trans (s.runWork_eq _)
  case put => rw [Work.put, Work.appendText, Work.pushExt, List.append_assoc]

/-- Settles O49: four bytes are read; their value is signed for `d` alone. -/
theorem intConversionsReadFourBytes : Obligations.IntConversionsReadFourBytes := by
  intro s p rest b0 b1 b2 b3 h
  refine ⟨fun hlen => ⟨?d, ?others⟩, fun hz conv => ?lenZ⟩
  case d => rw [exec_xIntD, State.runWork_eq, Work.xInt_four h hlen, if_pos rfl]; rfl
  case others =>
    have hint (conv : Conv) := Work.xInt_four h hlen conv rest
    simp only [List.forall_mem_cons, exec_xIntU, exec_xIntX, exec_xIntXU, exec_xIntC, State.runWork_eq, hint]
    exact ⟨rfl, rfl, rfl, rfl, List.forall_mem_nil _⟩
  case lenZ =>
    have hp : { p with len := .z } = p := by rw [← hz]
    rw [exec_xLenZ, hp, State.runWork_eq, Work.xInt_four h (by simp [hz])]
    rfl

/-- Settles O50: with `ll` eight bytes are read. -/
theorem intConversionsReadEightBytes : Obligations.IntConversionsReadEightBytes := by
  intro s p rest b0 b1 b2 b3 b4 b5 b6 b7 hll h
  refine ⟨?d, ?others⟩
  case d => rw [exec_xIntD, State.runWork_eq, Work.xInt_eight h hll, if_pos rfl]; rfl
  case others =>
    have hint (conv : Conv) := Work.xInt_eight h hll conv rest
    simp only [List.forall_mem_cons, exec_xIntU, exec_xIntX, exec_xIntXU, exec_xIntC, State.runWork_eq, hint]
    exact ⟨rfl, rfl, rfl, rfl, List.forall_mem_nil _⟩

/-- Settles O52: the value that an integer conversion reads, rendered with `n` fraction digits. -/
theorem fixedPointConversion : Obligations.FixedPointConversion := by
  intro s p conv rest d n hn hd h
  have hsize : d.length = p.size := hd
  refine ⟨intValue p.size conv.signed (leVal d), ?value, ?effect⟩
  case value => rw [intValue_eq, hsize]
  case effect => rw [exec_xIntFixed, State.runWork_eq, Work.xIntFixed_read hn h hsize, fixedText_eq]

/-- Settles O53: the two kinds of string parameter. -/
theorem stringConversions : Obligations.StringConversions := by
  intro s p rest
  refine ⟨fun str h0 _ h => ?inline, fun b0 b1 b2 b3 h => ?function⟩
  case inline => rw [exec_xStr, State.runWork_eq, Work.xStr_read h0 h]
  case function => rw [exec_xStrFn, State.runWork_eq, Work.xStrFn_read h]

/-- Settles O54: the three pointer conversions, each after its read. -/
theorem pointerConversions : Obligations.PointerConversions := by
  intro s rest
  refine ⟨fun b0 b1 b2 b3 h => ?hex, fun d hd h => ?time, fun n0 n1 d hd h => ?dump⟩
  case hex => rw [exec_xPtrP, State.runWork_eq, Work.xPtrP_read h]
  case time => rw [exec_xPtrT, State.runWork_eq, Work.xPtrT_read hd h]
  case dump => rw [exec_xPtrH, State.runWork_eq, Work.xPtrH_read hd h]

/-- A row that runs an operation which adds to the record. -/
theorem exec_of_adds {i : Instr} {s : State} {f : Work → Work} (hi : exec i s = s.runWork f)
    (h : Work.Adds s.work (f s.work)) :
    ∃ w, exec i s = .next { s with work := w, result := .none } ∧
      ((∀ n d q, i ≠ .ctl n d q) → Work.Adds s.work w) :=
  ⟨f s.work, hi.trans (s.runWork_eq f), fun _ => h⟩

/-- Settles O56: each row runs one operation, and each operation's lemma says what it adds. -/
theorem extractionRowsCompleteAndKeepTheRecord : Obligations.ExtractionRowsCompleteAndKeepTheRecord := by
  intro i s hext
  cases i
  case feed | takeDecoded | takeErrors | reset | idleStartMagic | idleRaw | frameByte | baseFrame | extFrame =>
    cases hext
  case ctl n d q => exact ⟨_, (exec_ctl n d q s).trans (s.runWork_eq _), fun hne => absurd rfl (hne n d q)⟩
  case fmtDone => exact exec_of_adds rfl (.of_frame_eq rfl)
  case fmtS32 | fmtU32 | fmtHex32 | fmtChar | fmtErrcode | fmtBad8 | fmtBad9 | fmtBad10 | fmtBad11 | fmtExt64Last |
      errNone | errFileLine | errFileInst | errPair | errReserved | errLegacy =>
    exact exec_of_adds rfl (Work.adds_pushItem _ _ _)
  case fmtString | fmtStruct | fmtStrbuf | fmtBytes | fmtWords =>
    exact exec_of_adds rfl (Work.slotEffect_countedItem _ _ _).adds
  case fmtExt64 => exact exec_of_adds rfl (Work.slotEffect_fmtExt64 _ _).adds
  case fmt64S64 | fmt64U64 | fmt64Hex64 | fmt64Time | fmt64Invalid =>
    exact exec_of_adds rfl (Work.slotEffect_form64 _ _).adds
  case litSubst => exact exec_of_adds rfl (Work.adds_litSubst _ _)
  case litEscape | litByte | xEscape | xUnprocessed | xTsMarker => exact exec_of_adds rfl (Work.adds_appendText _ _)
  case xIntFixed | xIntD | xIntU | xIntX | xIntXU | xIntC | xLenZ =>
    exact exec_of_adds rfl (Work.convEffect_xIntWith _ _ _ _ _ _).adds
  case xStr => exact exec_of_adds rfl (Work.convEffect_xStr _ _).adds
  case xStrFn => exact exec_of_adds rfl (Work.convEffect_xStrFn _ _ _).adds
  case xPtrP => exact exec_of_adds rfl (Work.convEffect_xPtrP _ _).adds
  case xPtrT => exact exec_of_adds rfl (Work.convEffect_xPtrT _ _).adds
  case xPtrH => exact exec_of_adds rfl (Work.convEffect_xPtrH _ _).adds

end Sys2Proof.Machine
end

section
/-! PROOFS. What an extraction does not look at it carries along: the trailer, and the text already written
(42_base_extractor.md R127, 44_extended_extractor.md R160 to R164). -/

namespace Sys2Proof.Machine

/-- A change of the record in progress that leaves alone every field an extraction reads and goes along with every
item, text and `bad_len` it adds. -/
structure FrameRec.Carried (g : FrameRec → FrameRec) : Prop where
  payload : ∀ r, (g r).payload = r.payload
  ts : ∀ r, (g r).ts = r.ts
  channel : ∀ r, (g r).channel = r.channel
  nparam : ∀ r, (g r).nparam = r.nparam
  litLen : ∀ r, (g r).litLen = r.litLen
  strIndex : ∀ r, (g r).strIndex = r.strIndex
  items : ∀ r, (g r).items = r.items
  badLen : ∀ r, (g r).badLen = r.badLen
  addText : ∀ r t, g { r with text := r.text ++ t } = { g r with text := (g r).text ++ t }
  addItem : ∀ r it, g { r with items := r.items ++ [it] } = { g r with items := (g r).items ++ [it] }
  addExt : ∀ r it, g { r with extItems := r.extItems ++ [it] } = { g r with extItems := (g r).extItems ++ [it] }
  setBadLen : ∀ r, g { r with badLen := true } = { g r with badLen := true }

/-- Another trailer. -/
theorem FrameRec.carried_trailer (x : Option Byte) : FrameRec.Carried fun r => { r with trailer := x } := by
  constructor <;> intros <;> rfl

/-- A text before the one already written. -/
theorem FrameRec.carried_prefix (p : Bytes) : FrameRec.Carried fun r => { r with text := p ++ r.text } := by
  constructor <;> intros <;> simp

namespace Work

/-- The local variables with the record in progress changed. -/
def mapFrame (g : FrameRec → FrameRec) (w : Work) : Work := { w with frame := g w.frame }

@[simp] theorem mapFrame_slot (g : FrameRec → FrameRec) (w : Work) : (w.mapFrame g).slot = w.slot := rfl
@[simp] theorem mapFrame_stop (g : FrameRec → FrameRec) (w : Work) : (w.mapFrame g).stop = w.stop := rfl
@[simp] theorem mapFrame_pc (g : FrameRec → FrameRec) (w : Work) : (w.mapFrame g).pc = w.pc := rfl
@[simp] theorem mapFrame_cur (g : FrameRec → FrameRec) (w : Work) : (w.mapFrame g).cur = w.cur := rfl
@[simp] theorem mapFrame_nextItem (g : FrameRec → FrameRec) (w : Work) :
    (w.mapFrame g).nextItem = w.nextItem := rfl

section

variable {g : FrameRec → FrameRec} (hg : FrameRec.Carried g) (w : Work)

include hg

/-! ### Appending -/

theorem pushItem_mapFrame (it : BaseItem) (k : Nat) :
    (w.mapFrame g).pushItem it k = (w.pushItem it k).mapFrame g := by
  simp only [pushItem, mapFrame, hg.addItem]

theorem endBadLen_mapFrame : (w.mapFrame g).endBadLen = w.endBadLen.mapFrame g := by
  simp only [endBadLen, mapFrame, hg.setBadLen]

theorem appendText_mapFrame (t : Bytes) : (w.mapFrame g).appendText t = (w.appendText t).mapFrame g := by
  simp only [appendText, mapFrame, hg.addText]

theorem put_mapFrame (t rest : Bytes) (it : ExtItem) :
    (w.mapFrame g).put t rest it = (w.put t rest it).mapFrame g := by
  rw [put, appendText_mapFrame hg, put]
  simp only [pushExt, mapFrame, hg.addExt]

theorem scanBadLen_mapFrame : (w.mapFrame g).scanBadLen = w.scanBadLen.mapFrame g := by
  have hboth := hg.setBadLen { w.frame with text := w.frame.text ++ badLenText }
  rw [hg.addText] at hboth
  simp only [scanBadLen, mapFrame, hboth]

/-! ### Reading the Base payload -/

theorem paySize_mapFrame : (w.mapFrame g).paySize = w.paySize := congrArg List.length (hg.payload w.frame)

theorem fixedSize_mapFrame : (w.mapFrame g).fixedSize = w.fixedSize := by
  simp only [fixedSize, nibbleBytes, slots, litSize, mapFrame, hg.nparam, hg.litLen]

theorem code_mapFrame (c : Cfg) (i : Nat) : (w.mapFrame g).code c i = w.code c i := by
  simp only [code, payByte, litSize, mapFrame, hg.payload, hg.litLen]

theorem word_mapFrame (i : Nat) : (w.mapFrame g).word i = w.word i := by
  simp only [word, payRead, payByte, nibbleBytes, slots, litSize, mapFrame, hg.payload, hg.nparam, hg.litLen]

theorem curWord_mapFrame : (w.mapFrame g).curWord = w.curWord := word_mapFrame hg w w.slot

theorem pairValue_mapFrame : (w.mapFrame g).pairValue = w.pairValue :=
  congrArg₂ (· ++ ·) (word_mapFrame hg w (w.slot + 1)) (word_mapFrame hg w w.slot)

theorem trailRead_mapFrame (n : Nat) :
    (w.mapFrame g).trailRead n = (w.trailRead n).map fun r => (r.1, r.2.mapFrame g) := by
  have hfield : (w.mapFrame g).frame.payload = w.frame.payload := hg.payload w.frame
  simp only [trailRead, paySize_mapFrame hg, hfield, mapFrame_cur]
  by_cases h : w.cur + n > w.paySize
  · rw [if_pos h, if_pos h]; rfl
  · rw [if_neg h, if_neg h]; rfl

theorem countedItem_mapFrame (bad : BaseItem) (mk : Bytes → BaseItem) :
    (w.mapFrame g).countedItem bad mk = (w.countedItem bad mk).mapFrame g := by
  have hcount : (w.mapFrame g).count = w.count := congrArg (BitVec.extractLsb' 0 16) (curWord_mapFrame hg w)
  rw [countedItem, countedItem, hcount, trailRead_mapFrame hg]
  by_cases h : w.count = 0xFFFF#16
  · rw [if_pos h, if_pos h, pushItem_mapFrame hg]
  · rw [if_neg h, if_neg h]
    cases w.trailRead w.count.toNat with
    | none => exact endBadLen_mapFrame hg w
    | some r => exact pushItem_mapFrame hg r.2 (mk r.1) 1

/-! ### The slot loop -/

theorem form64_mapFrame (n : BitVec 4) : (w.mapFrame g).form64 n = (w.form64 n).mapFrame g := by
  simp only [form64, pairValue_mapFrame hg, pushItem_mapFrame hg]
  split <;> rfl

theorem fmtExt64_mapFrame (c : Cfg) : (w.mapFrame g).fmtExt64 c = (w.fmtExt64 c).mapFrame g := by
  have hslots : (w.mapFrame g).slots = w.slots := congrArg BitVec.toNat (hg.nparam w.frame)
  simp only [fmtExt64, mapFrame_slot, hslots, code_mapFrame hg, ext64Last, pushItem_mapFrame hg, form64_mapFrame hg]
  split <;> rfl

theorem extractSlot_mapFrame (c : Cfg) : (w.mapFrame g).extractSlot c = (w.extractSlot c).mapFrame g := by
  simp only [extractSlot, mapFrame_slot, code_mapFrame hg, fmtS32, fmtU32, fmtHex32, fmtChar, fmtErrcode, errItem, fmtString,
    badFormat, fmtStruct, fmtStrbuf, fmtBytes, fmtWords, typeId, curWord_mapFrame hg, pushItem_mapFrame hg,
    countedItem_mapFrame hg, fmtExt64_mapFrame hg]
  split <;> rfl

theorem slotLoop_mapFrame (c : Cfg) (n : Nat) :
    slotLoop c n (w.mapFrame g) = (slotLoop c n w).mapFrame g := by
  induction n generalizing w with
  | zero => rfl
  | succ n ih =>
    have hslots : (w.mapFrame g).slots = w.slots := congrArg BitVec.toNat (hg.nparam w.frame)
    rw [slotLoop, slotLoop, mapFrame_stop, mapFrame_slot, hslots]
    by_cases h : w.stop = true ∨ w.slots ≤ w.slot
    · rw [if_pos h, if_pos h]
    · rw [if_neg h, if_neg h, extractSlot_mapFrame hg, ih]

theorem baseItems_mapFrame (c : Cfg) : (w.mapFrame g).baseItems c = (w.baseItems c).mapFrame g := by
  have hslots : (w.mapFrame g).slots = w.slots := congrArg BitVec.toNat (hg.nparam w.frame)
  rw [baseItems, baseItems, fixedSize_mapFrame hg, hslots, paySize_mapFrame hg]
  by_cases h : w.fixedSize > w.paySize
  · rw [if_pos h, if_pos h, endBadLen_mapFrame hg]
  · rw [if_neg h, if_neg h]
    exact slotLoop_mapFrame hg { w with cur := w.fixedSize } c w.slots

/-! ### The literal -/

theorem litSubst_mapFrame (c : Cfg) : (w.mapFrame g).litSubst c = (w.litSubst c).mapFrame g := by
  have hitems : (w.mapFrame g).frame.items = w.frame.items := hg.items w.frame
  rw [litSubst, litSubst, hitems, mapFrame_nextItem]
  cases w.frame.items[w.nextItem]? with
  | none => rfl
  | some it =>
    exact congrArg (advanceLit 1)
      (appendText_mapFrame hg { w with nextItem := w.nextItem + 1 } (itemText c it))

theorem litStep_mapFrame (c : Cfg) (op : LitOp) :
    (w.mapFrame g).litStep c op = (w.litStep c op).mapFrame g := by
  cases op with
  | subst => exact litSubst_mapFrame hg w c
  | escape x => exact congrArg (advanceLit 2) (appendText_mapFrame hg w x.toList)
  | byte b => exact congrArg (advanceLit 1) (appendText_mapFrame hg w [b])

theorem litFold_mapFrame (c : Cfg) (ops : List LitOp) :
    ops.foldl (litStep c) (w.mapFrame g) = (ops.foldl (litStep c) w).mapFrame g := by
  induction ops generalizing w with
  | nil => rfl
  | cons op ops ih => rw [List.foldl_cons, List.foldl_cons, litStep_mapFrame hg, ih]

theorem expand_mapFrame (c : Cfg) (literal : Bytes) :
    (w.mapFrame g).expand c literal = (w.expand c literal).mapFrame g := by
  have hfold : (litOps literal).foldl (litStep c) { w.mapFrame g with nextItem := 0, litPos := 0 } =
      ((litOps literal).foldl (litStep c) { w with nextItem := 0, litPos := 0 }).mapFrame g :=
    litFold_mapFrame hg { w with nextItem := 0, litPos := 0 } c (litOps literal)
  have hleft (v : Work) : (v.mapFrame g).leftovers c = v.leftovers c := by
    simp only [leftovers, mapFrame, hg.items]
  simp only [expand, hfold, hleft, appendText_mapFrame hg]

theorem baseText_mapFrame (c : Cfg) : (w.mapFrame g).baseText c = (w.baseText c).mapFrame g := by
  have hpre : framePrefix c (w.mapFrame g).frame.ts (w.mapFrame g).frame.channel =
      framePrefix c w.frame.ts w.frame.channel := congrArg₂ (framePrefix c) (hg.ts _) (hg.channel _)
  have hlit : (w.mapFrame g).literal = w.literal := by
    simp only [literal, litSize, paySize, mapFrame, hg.payload, hg.litLen]
  have hbad (v : Work) : (v.mapFrame g).frame.badLen = v.frame.badLen := hg.badLen v.frame
  simp only [baseText, hpre, hlit, appendText_mapFrame hg, expand_mapFrame hg, hbad]
  split <;> rfl

theorem baseDecode_mapFrame (c : Cfg) : (w.mapFrame g).baseDecode c = (w.baseDecode c).mapFrame g := by
  rw [baseDecode, baseDecode, baseItems_mapFrame hg, baseText_mapFrame hg]

/-! ### The conversions of a template -/

theorem readBytes_mapFrame (n : Nat) :
    (w.mapFrame g).readBytes n = (w.readBytes n).map fun r => (r.1, r.2.mapFrame g) := by
  have hfield : (w.mapFrame g).frame.payload = w.frame.payload := hg.payload w.frame
  simp only [readBytes, paySize_mapFrame hg, hfield, mapFrame_pc]
  by_cases h : w.pc + n > w.paySize
  · rw [if_pos h, if_pos h]; rfl
  · rw [if_neg h, if_neg h]; rfl

theorem xIntWith_mapFrame (s : IntSpec) (conv : Conv) (render : Int → Bytes) (item : Int → ExtItem)
    (rest : Bytes) :
    (w.mapFrame g).xIntWith s conv render item rest = (w.xIntWith s conv render item rest).mapFrame g := by
  rw [xIntWith, xIntWith, readBytes_mapFrame hg]
  cases w.readBytes s.size with
  | none => exact scanBadLen_mapFrame hg w
  | some r => exact put_mapFrame hg r.2 _ rest _

theorem xStr_mapFrame (rest : Bytes) : (w.mapFrame g).xStr rest = (w.xStr rest).mapFrame g := by
  have hfield : (w.mapFrame g).frame.payload = w.frame.payload := hg.payload w.frame
  simp only [xStr, hfield, mapFrame_pc]
  split
  · exact scanBadLen_mapFrame hg w
  · exact put_mapFrame hg { w with
      pc := w.pc + ((w.frame.payload.drop w.pc).takeWhile (· ≠ 0#8)).length + 1 } _ rest _

theorem xStrFn_mapFrame (c : Cfg) (rest : Bytes) :
    (w.mapFrame g).xStrFn c rest = (w.xStrFn c rest).mapFrame g := by
  rw [xStrFn, xStrFn, readBytes_mapFrame hg]
  cases w.readBytes 5 with
  | none => exact scanBadLen_mapFrame hg w
  | some r => exact put_mapFrame hg r.2 _ rest _

theorem xPtrP_mapFrame (rest : Bytes) : (w.mapFrame g).xPtrP rest = (w.xPtrP rest).mapFrame g := by
  rw [xPtrP, xPtrP, readBytes_mapFrame hg]
  cases w.readBytes 4 with
  | none => exact scanBadLen_mapFrame hg w
  | some r => exact put_mapFrame hg r.2 _ rest _

theorem xPtrT_mapFrame (rest : Bytes) : (w.mapFrame g).xPtrT rest = (w.xPtrT rest).mapFrame g := by
  have hts : (w.mapFrame g).frame.ts = w.frame.ts := hg.ts w.frame
  rw [xPtrT, xPtrT, readBytes_mapFrame hg, hts]
  cases w.readBytes 8 with
  | none => exact scanBadLen_mapFrame hg w
  | some r => exact put_mapFrame hg r.2 _ rest _

theorem xPtrH_mapFrame (rest : Bytes) : (w.mapFrame g).xPtrH rest = (w.xPtrH rest).mapFrame g := by
  rw [xPtrH, xPtrH, readBytes_mapFrame hg]
  cases w.readBytes 2 with
  | none => exact scanBadLen_mapFrame hg w
  | some r =>
    simp only [Option.map_some, readBytes_mapFrame hg]
    cases r.2.readBytes (leVal r.1) with
    | none => exact scanBadLen_mapFrame hg r.2
    | some r' => exact put_mapFrame hg r'.2 _ rest _

theorem convert_mapFrame (c : Cfg) (t : Token) :
    (w.mapFrame g).convert c t = (w.convert c t).mapFrame g := by
  cases t with
  | escape rest => exact appendText_mapFrame hg w _
  | int s conv rest =>
    simp only [convert, xIntFixed, xInt, xIntWith_mapFrame hg]
    split <;> rfl
  | str p rest =>
    have hpeek : (w.mapFrame g).peek = w.peek := congrArg (·[w.pc]?) (hg.payload w.frame)
    simp only [convert, hpeek, xStrFn_mapFrame hg, xStr_mapFrame hg]
    split <;> rfl
  | ptr k rest =>
    cases k with
    | P => exact xPtrP_mapFrame hg w rest
    | T => exact xPtrT_mapFrame hg w rest
    | h => exact xPtrH_mapFrame hg w rest
  | unprocessed t => exact appendText_mapFrame hg w _

/-! ### The scan of a template -/

theorem scanStep_mapFrame (c : Cfg) (t : Bytes) :
    (w.mapFrame g).scanStep c t = (w.scanStep c t).mapFrame g := by
  rw [scanStep, scanStep, mapFrame_stop, convert_mapFrame hg]
  split <;> rfl

theorem scanFold_mapFrame (c : Cfg) (ts : List Bytes) :
    ts.foldl (scanStep c) (w.mapFrame g) = (ts.foldl (scanStep c) w).mapFrame g := by
  induction ts generalizing w with
  | nil => rfl
  | cons t ts ih => rw [List.foldl_cons, List.foldl_cons, scanStep_mapFrame hg, ih]

theorem scan_mapFrame (c : Cfg) (t : Bytes) : (w.mapFrame g).scan c t = (w.scan c t).mapFrame g := by
  rw [scan, scan, appendText_mapFrame hg, scanFold_mapFrame hg]

theorem extDecode_mapFrame (c : Cfg) : (w.mapFrame g).extDecode c = (w.extDecode c).mapFrame g := by
  have hidx : (w.mapFrame g).frame.strIndex = w.frame.strIndex := hg.strIndex w.frame
  have hts : (w.mapFrame g).frame.ts = w.frame.ts := hg.ts w.frame
  rw [extDecode, extDecode, hidx]
  cases c.stringTable[(w.frame.strIndex.getD 0).toNat]? with
  | none => exact appendText_mapFrame hg w _
  | some t =>
    simp only [scanTemplate, xTsMarker, hts, appendText_mapFrame hg, scan_mapFrame hg]
    split <;> rfl

/-- Whatever an extraction does not look at it carries along. -/
theorem decodeFrame_mapFrame (c : Cfg) : (w.mapFrame g).decodeFrame c = (w.decodeFrame c).mapFrame g := by
  rw [decodeFrame, decodeFrame, baseDecode_mapFrame hg, extDecode_mapFrame hg]
  split <;> rfl

end

/-! ### Looking up a template -/

theorem extDecode_of_template {c : Cfg} {r : FrameRec} {i : BitVec 16} {t : Bytes} (hi : r.strIndex = some i)
    (ht : c.stringTable[i.toNat]? = some t) : (start r).extDecode c = (start r).scanTemplate c t := by
  have hidx : ((start r).frame.strIndex.getD 0) = i := congrArg (Option.getD · 0) hi
  rw [extDecode, hidx, ht]

/-- R160: past the end of the table. -/
theorem extDecode_of_no_template {c : Cfg} {r : FrameRec} {i : BitVec 16} (hi : r.strIndex = some i)
    (ht : c.stringTable.length ≤ i.toNat) :
    (start r).extDecode c = (start r).appendText Config.txtBadIndex := by
  have hidx : ((start r).frame.strIndex.getD 0) = i := congrArg (Option.getD · 0) hi
  rw [extDecode, hidx, List.getElem?_eq_none ht]

/-- R164: the marker is dropped and the timestamp stands in its place. -/
theorem scanTemplate_marker (c : Cfg) (w : Work) (rest : Bytes) :
    w.scanTemplate c (c.tsMarker.bytes ++ rest) = w.xTsMarker.scan c rest := by
  have hpre : c.tsMarker.bytes.isPrefixOf (c.tsMarker.bytes ++ rest) = true :=
    List.isPrefixOf_iff_prefix.2 (List.prefix_append _ _)
  rw [scanTemplate, if_pos hpre, List.drop_left]

theorem scanTemplate_no_marker {c : Cfg} {t : Bytes} (w : Work) (ht : ¬ c.tsMarker.bytes <+: t) :
    w.scanTemplate c t = w.scan c t := by
  rw [scanTemplate, if_neg fun h => ht (List.isPrefixOf_iff_prefix.1 h)]

/-- On a record without text, appending is writing in front. -/
theorem appendText_start {r : FrameRec} (hr : r.text = []) (p : Bytes) :
    (start r).appendText p = (start r).mapFrame fun q => { q with text := p ++ q.text } := by
  simp only [appendText, start, mapFrame, hr, List.nil_append, List.append_nil]

end Work

/-- Settles O16: no operation of an extraction reads the trailer, so the changed trailer is carried through the
slot loop and the scan of the literal (by induction on the turns), or through the scan of the template. -/
theorem trailerDoesNotChangeTheText : Obligations.TrailerDoesNotChangeTheText := by
  intro c r x
  exact congrArg Work.frame
    (Work.decodeFrame_mapFrame (FrameRec.carried_trailer x) (Work.start r) c)

/-- Settles O47: the four cases of the lookup; a scan carries a text written before it along. -/
theorem templateLookupAndMarker : Obligations.TemplateLookupAndMarker := by
  intro c r i hi hr
  refine ⟨fun hlen => ?_, fun rest ht => ?_, fun t ht hpre => ?_, fun w t => ⟨rfl, fun hstop => ?_⟩⟩
  · rw [Work.extDecode_of_no_template hi hlen, Work.appendText_start hr]
    simp only [Work.mapFrame, Work.start, hr, List.append_nil]
  · have hdec : (Work.start r).extDecode c = ((Work.start r).appendText (tsText r.ts.toNat)).scan c rest := by
      rw [Work.extDecode_of_template hi ht, Work.scanTemplate_marker]
      rfl
    refine ⟨?_, hdec⟩
    rw [hdec, Work.appendText_start hr, Work.scan_mapFrame (FrameRec.carried_prefix _)]
    rfl
  · rw [Work.extDecode_of_template hi ht, Work.scanTemplate_no_marker _ hpre]
  · rw [Work.scanStep, hstop, if_neg Bool.false_ne_true]

end Sys2Proof.Machine
end
